-- ==== Sys2Proof/Word.lean ====
section
/-! DEFINITION. The word types of the block: bytes on the bus and 16-bit values on the host port
(spec 00_scope.md R10: `u8`, `u16`, all unsigned). -/

namespace Sys2Proof

/-- `u8` of R10: one byte on the bus. -/
abbrev Byte := BitVec 8

/-- `u16` of R10: a logical address, a length or a 16-bit datum. -/
abbrev Half := BitVec 16

end Sys2Proof
end

