-- ==== Sys2Proof/Config.lean ====
section
/-! DEFINITION. What is fixed at build time (spec 00_scope.md R6, R7, R9; 92_eei_decisions.md, the table of open
parameters) and the free values of the model. The numbers themselves (the defaults, the legal ranges, the
tier) are functions in Sys2Proof/Machine/Params.lean. -/

namespace Sys2Proof

/-- The four buffer tiers of R7 ("2K/4K/8K/16K"). -/
inductive Tier where
  | k2
  | k4
  | k8
  | k16
  deriving DecidableEq, Repr

/-- The build-time parameters: R6 (`MAX_SOCK_NUM`, `LARGE_BUFFERS`) and the named parameters of R9. `spiSettings`
is the opaque token of D5 and `timeUnitMicros` the length of a time-unit (D15, in microseconds): no rule reads
either. A value outside its legal range is no configuration of this hardware (D32, U8) and every operation is
refused under it. -/
structure Config where
  /-- `MAX_SOCK_NUM`, written `N` in the spec -/
  maxSockNum : Nat
  /-- `LARGE_BUFFERS` -/
  largeBuffers : Bool
  /-- `SPI_SETTINGS` -/
  spiSettings : Nat
  /-- `MR_ADDR` -/
  mrAddr : Half
  /-- `RST_CMD` -/
  rstCmd : Byte
  /-- `SENTINEL[1]` -/
  sentinel1 : Byte
  /-- `SENTINEL[2]` -/
  sentinel2 : Byte
  /-- `SENTINEL[3]` -/
  sentinel3 : Byte
  /-- `VERSION_ADDR` -/
  versionAddr : Half
  /-- `VERSION_CONST` -/
  versionConst : Byte
  /-- `PHY_ADDR` -/
  phyAddr : Half
  /-- `LINK_MASK` -/
  linkMask : Byte
  /-- `SOCK_REG_BASE` -/
  sockRegBase : Half
  /-- `SOCK_REG_STRIDE` -/
  sockRegStride : Half
  /-- `SN_CR_OFF` -/
  snCrOff : Byte
  /-- `SN_RXSIZE_OFF` -/
  snRxSizeOff : Byte
  /-- `SN_TXSIZE_OFF` -/
  snTxSizeOff : Byte
  /-- `RESET_SETTLE_UNITS` -/
  resetSettleUnits : Nat
  /-- `TIME_UNIT` in microseconds -/
  timeUnitMicros : Nat
  deriving DecidableEq, Repr

/-- FREE VALUE (R62, U1; log entry 4): the byte the bus answers at place `n` of the run, counted in received bytes,
where the environment has written no answer out. No body: nothing can be proved of its value. -/
opaque Config.freeByte : Nat → Byte

end Sys2Proof
end

