-- ==== Sys2Proof/Machine/Params.lean ====
section
/-! DEFINITION. The functions of the configuration: defaults, legal ranges, tier, buffer sizes, the buffer
partition table and the constants the document fixes (spec 00_scope.md R6 to R9, 10_state.md R30, 92_eei_decisions.md). -/

namespace Sys2Proof

/-- The defaults of R9 and of the parameter table of 92_eei_decisions.md. `MAX_SOCK_NUM` must be given there; 8 is
"the original software's default" (GK1), log entry 3. -/
def Config.default : Config where
  maxSockNum := 8
  largeBuffers := false
  spiSettings := 0
  mrAddr := 0x0000
  rstCmd := 0x80
  sentinel1 := 0x08
  sentinel2 := 0x10
  sentinel3 := 0x00
  versionAddr := 0x0039
  versionConst := 0x04
  phyAddr := 0x002E
  linkMask := 0x01
  sockRegBase := 0x1000
  sockRegStride := 0x0100
  snCrOff := 0x01
  snRxSizeOff := 0x1E
  snTxSizeOff := 0x1F
  resetSettleUnits := 560
  timeUnitMicros := 1000

/-- Exactly one bit of the byte is set (R9 of `LINK_MASK`: "one status bit"). -/
def oneBit (m : Byte) : Bool :=
  [0x01, 0x02, 0x04, 0x08, 0x10, 0x20, 0x40, 0x80].contains m

/-- The legal configurations: R6 for `N`, R9 and the table of 92_eei_decisions.md for the rest. `SOCK_REG_STRIDE` has one
legal value, the one "in the source" that R53 and R136 write out (log entry 24). -/
def Config.legal (c : Config) : Bool :=
  [[1, 2, 4, 8].contains c.maxSockNum,
    c.mrAddr < 0x0100, c.versionAddr < 0x0100, c.phyAddr < 0x0100,
    c.sentinel1 != c.sentinel2, c.sentinel1 != c.sentinel3, c.sentinel2 != c.sentinel3,
    oneBit c.linkMask,
    c.sockRegBase &&& 0x07FF == 0x0000, 0x0800 ≤ c.sockRegBase, c.sockRegBase ≤ 0x7800,
    c.sockRegStride == 0x0100].all id

/-- The tier of R7: 2K when large buffers are off, else by the socket count. -/
def Config.tier (c : Config) : Tier :=
  if c.largeBuffers then
    match c.maxSockNum with
    | 8 => .k2
    | 4 => .k4
    | 2 => .k8
    | _ => .k16
  else .k2

/-- `SSIZE` of R7, in bytes. -/
def Tier.ssize : Tier → Half
  | .k2 => 2048
  | .k4 => 4096
  | .k8 => 8192
  | .k16 => 16384

/-- How many sockets have buffers in a tier: `16384 / SSIZE` (R54, R137). -/
def Tier.sockets : Tier → Nat
  | .k2 => 8
  | .k4 => 4
  | .k8 => 2
  | .k16 => 1

/-- `cap(i)` of R30, for both directions alike: the buffer partition table. -/
def Config.capacity (c : Config) (i : Nat) : Nat :=
  if c.largeBuffers then (if i < c.maxSockNum then c.tier.ssize.toNat else 0) else 2048

/-- The value R185 writes to a size register of socket `i`: `SSIZE >> 10` for an active socket, else 0. -/
def Config.sizeCode (c : Config) (i : Nat) : Byte :=
  if i < c.maxSockNum then (c.tier.ssize >>> 10).setWidth 8 else 0x00

/-- A configuration of the same parameters whose tier is `t` (R7's pairing of tier and socket count). -/
def Config.withTier (c : Config) (t : Tier) : Config :=
  { c with maxSockNum := t.sockets, largeBuffers := true }

/-- `CHIP_SOCKETS` of R8. -/
def chipSockets : Nat := 8

/-- `COALESCE_MAX` of R8: the longest write sent as one burst with its header. -/
def coalesceMax : Nat := 5

/-- `SOFT_RESET_ATTEMPTS` of R8. -/
def softResetAttempts : Nat := 20

/-- `POLL_SPACING` of R8, in time-units. -/
def pollSpacing : Nat := 1

end Sys2Proof
end

