-- ==== Sys2Proof/Syntax.lean ====
section
/-! DEFINITION. The operations of the block as syntax: one constructor for every row of spec/opcode_table.json,
the words its ports carry, and the control frame (spec 30_encoding.md R81, R90, R91; 10_state.md R22, R32). -/

namespace Sys2Proof

/-- The four regions of the logical address space (spec 20_memory.md R51). -/
inductive Region where
  | common
  | sockReg
  | txBuf
  | rxBuf
  deriving DecidableEq, Repr

/-- The control frame, its three bytes in the order sent (R81). -/
structure Frame where
  h0 : Byte
  h1 : Byte
  h2 : Byte
  deriving DecidableEq, Repr

/-- What R88's `decode` reads out of a frame. -/
structure FrameFields where
  region : Region
  sock : BitVec 3
  rw : Bool
  om : BitVec 2
  offset : Half
  deriving DecidableEq, Repr

/-- The operand latches of the host command port (R22), `op` among them. (`rw`, which R22 lists for the encoder
alone, stands with the encoder's port: log entry 9.) -/
structure Latches where
  op : BitVec 4
  addr : Half
  sock : BitVec 3
  len : Half
  val : Half
  wbuf : List Byte
  deriving DecidableEq, Repr

/-- What can stand at a port of the block (log entry 11):
`host`: an operation at the host command port, handed over whole (R22, R32, R90);
`enc`: a request at the encoder's combinational port (R32: `addr`, `rw`, `sock`);
`frame`: the same port, the request named by the 24-bit frame it is to give (a FRAME row of the table);
`uop`: the label of a micro-operation (R91), which no host can issue. -/
inductive PortWord where
  | host (l : Latches)
  | enc (rw : Bool) (addr : Half) (sock : BitVec 3)
  | frame (w : BitVec 24)
  | uop (label : BitVec 3)
  deriving DecidableEq, Repr

/-- The three formats of spec/opcode_table.json: frames (the encoder), host operations, micro-operation labels. -/
inductive Format where
  | frame
  | hostop
  | uop
  deriving DecidableEq, Repr

/-- The format of what stands at a port. -/
def PortWord.format : PortWord → Format
  | .host _ => .hostop
  | .enc _ _ _ => .frame
  | .frame _ => .frame
  | .uop _ => .uop

/-- Why the decoder gives no instruction.
`payloadLength`: a WR whose `wbuf` does not hold `len` bytes (R22);
`frameNeverProduced`: a frame that breaks an invariant of R88 (D37 refuses it);
`noMicroOperation`: a label of R91's 3-bit field that names nothing. All three are safe: the model has no step. -/
inductive DecodeError where
  | payloadLength
  | frameNeverProduced
  | noMicroOperation
  deriving DecidableEq, Repr

/-- One constructor for each row of spec/opcode_table.json. The encoder rows carry the inputs of the encoder's port:
the logical address and the `sock` input, which R133 says is accepted and ignored. -/
inductive Instr where
  /-- ENC.COMMON.R (R126) -/
  | encCommonR (addr : Half) (sock : BitVec 3)
  /-- ENC.SOCKREG.R (R127) -/
  | encSockregR (addr : Half) (sock : BitVec 3)
  /-- ENC.COMMON.W (R126) -/
  | encCommonW (addr : Half) (sock : BitVec 3)
  /-- ENC.SOCKREG.W (R127) -/
  | encSockregW (addr : Half) (sock : BitVec 3)
  /-- ENC.TXBUF.R.2K (R128) -/
  | encTxbufR2K (addr : Half) (sock : BitVec 3)
  /-- ENC.TXBUF.W.2K (R128) -/
  | encTxbufW2K (addr : Half) (sock : BitVec 3)
  /-- ENC.TXBUF.R.4K (R128) -/
  | encTxbufR4K (addr : Half) (sock : BitVec 3)
  /-- ENC.TXBUF.W.4K (R128) -/
  | encTxbufW4K (addr : Half) (sock : BitVec 3)
  /-- ENC.TXBUF.R.8K (R128) -/
  | encTxbufR8K (addr : Half) (sock : BitVec 3)
  /-- ENC.TXBUF.W.8K (R128) -/
  | encTxbufW8K (addr : Half) (sock : BitVec 3)
  /-- ENC.TXBUF.R.16K (R128) -/
  | encTxbufR16K (addr : Half) (sock : BitVec 3)
  /-- ENC.TXBUF.W.16K (R128) -/
  | encTxbufW16K (addr : Half) (sock : BitVec 3)
  /-- ENC.RXBUF.R.2K (R129) -/
  | encRxbufR2K (addr : Half) (sock : BitVec 3)
  /-- ENC.RXBUF.W.2K (R129) -/
  | encRxbufW2K (addr : Half) (sock : BitVec 3)
  /-- ENC.RXBUF.R.4K (R129) -/
  | encRxbufR4K (addr : Half) (sock : BitVec 3)
  /-- ENC.RXBUF.W.4K (R129) -/
  | encRxbufW4K (addr : Half) (sock : BitVec 3)
  /-- ENC.RXBUF.R.8K (R129) -/
  | encRxbufR8K (addr : Half) (sock : BitVec 3)
  /-- ENC.RXBUF.W.8K (R129) -/
  | encRxbufW8K (addr : Half) (sock : BitVec 3)
  /-- ENC.RXBUF.R.16K (R129) -/
  | encRxbufR16K (addr : Half) (sock : BitVec 3)
  /-- ENC.RXBUF.W.16K (R129) -/
  | encRxbufW16K (addr : Half) (sock : BitVec 3)
  /-- WR, op 0x1 (R153): `wbuf` holds `len` bytes -/
  | wr (addr len : Half) (wbuf : List Byte)
  /-- RD, op 0x2 (R156) -/
  | rd (addr len : Half)
  /-- WR8, op 0x3 (R159) -/
  | wr8 (addr : Half) (v : Byte)
  /-- RD8, op 0x4 (R160) -/
  | rd8 (addr : Half)
  /-- WR16, op 0x5 (R161) -/
  | wr16 (addr v : Half)
  /-- RD16, op 0x6 (R162) -/
  | rd16 (addr : Half)
  /-- INIT, op 0x8 (R182) -/
  | init
  /-- LINK, op 0x9 (R186) -/
  | link
  /-- EXEC, op 0xA (R187) -/
  | exec (sock : BitVec 3) (c : Byte)
  /-- VERIFY, op 0xB (R184) -/
  | verify
  /-- RESERVED.0x0 (R92) -/
  | reserved0
  /-- RESERVED.0x7 (R92) -/
  | reserved7
  /-- RESERVED.0xC (R92) -/
  | reservedC
  /-- RESERVED.0xD (R92) -/
  | reservedD
  /-- RESERVED.0xE (R92) -/
  | reservedE
  /-- RESERVED.0xF (R92) -/
  | reservedF
  /-- CSCFG, label 000 (R111) -/
  | csCfg
  /-- CSLOW, label 001 (R112) -/
  | csLow
  /-- CSHIGH, label 010 (R113) -/
  | csHigh
  /-- SOFTRESET, label 011 (R183) -/
  | softReset
  /-- PARTITION, label 100 (R185) -/
  | partition
  deriving DecidableEq, Repr

/-- The format of an instruction's row of the table. -/
def Instr.format : Instr → Format
  | .encCommonR _ _ | .encCommonW _ _ | .encSockregR _ _ | .encSockregW _ _
  | .encTxbufR2K _ _ | .encTxbufW2K _ _ | .encTxbufR4K _ _ | .encTxbufW4K _ _
  | .encTxbufR8K _ _ | .encTxbufW8K _ _ | .encTxbufR16K _ _ | .encTxbufW16K _ _
  | .encRxbufR2K _ _ | .encRxbufW2K _ _ | .encRxbufR4K _ _ | .encRxbufW4K _ _
  | .encRxbufR8K _ _ | .encRxbufW8K _ _ | .encRxbufR16K _ _ | .encRxbufW16K _ _ => .frame
  | .wr _ _ _ | .rd _ _ | .wr8 _ _ | .rd8 _ | .wr16 _ _ | .rd16 _
  | .init | .link | .exec _ _ | .verify
  | .reserved0 | .reserved7 | .reservedC | .reservedD | .reservedE | .reservedF => .hostop
  | .csCfg | .csLow | .csHigh | .softReset | .partition => .uop

end Sys2Proof
end

