-- ==== Sys2Proof/Machine/Encoder.lean ====
section
/-! DEFINITION. The Address-to-Frame Encoder as pure functions, its address composers and the inverse that reads a
frame (spec 41_encoder.md R125 to R139, 30_encoding.md R81 to R88, 20_memory.md R51 to R55). -/

namespace Sys2Proof

/-- `a[15:8]`. -/
def hiByte (a : Half) : Byte := a.extractLsb' 8 8

/-- `a[7:0]`. -/
def loByte (a : Half) : Byte := a.extractLsb' 0 8

/-- `region(a)` of R51, by the strict comparisons of R125. -/
def region (a : Half) : Region :=
  if a < 0x0100 then .common
  else if a < 0x8000 then .sockReg
  else if a < 0xC000 then .txBuf
  else .rxBuf

/-- `SOCKBITS` of R130: shift and mask by tier, taken as a byte. -/
def sockBits (t : Tier) (a : Half) : Byte :=
  match t with
  | .k2 => loByte ((a >>> 6) &&& 0x00E0)
  | .k4 => loByte ((a >>> 7) &&& 0x0060)
  | .k8 => loByte ((a >>> 8) &&& 0x0020)
  | .k16 => 0x00

/-- The base mode constants of R85, by region and direction (`rw` true = write). -/
def baseMode (r : Region) (rw : Bool) : Byte :=
  match r, rw with
  | .common, false => 0x00
  | .common, true => 0x04
  | .sockReg, false => 0x08
  | .sockReg, true => 0x0C
  | .txBuf, false => 0x10
  | .txBuf, true => 0x14
  | .rxBuf, false => 0x18
  | .rxBuf, true => 0x1C

/-- `ENC_COMMON` of R126. -/
def encCommon (a : Half) (rw : Bool) : Frame :=
  ⟨0x00, loByte a, baseMode .common rw⟩

/-- `ENC_SOCKREG` of R127. -/
def encSockreg (a : Half) (rw : Bool) : Frame :=
  ⟨0x00, loByte a, loByte ((a >>> 3) &&& 0x00E0) ||| baseMode .sockReg rw⟩

/-- `ENC_TXBUF` of R128. -/
def encTxbuf (t : Tier) (a : Half) (rw : Bool) : Frame :=
  ⟨hiByte a, loByte a, sockBits t a ||| baseMode .txBuf rw⟩

/-- `ENC_RXBUF` of R129. -/
def encRxbuf (t : Tier) (a : Half) (rw : Bool) : Frame :=
  ⟨hiByte a, loByte a, sockBits t a ||| baseMode .rxBuf rw⟩

/-- `ENC(addr, rw)` of R125 under tier `t`. -/
def enc (t : Tier) (a : Half) (rw : Bool) : Frame :=
  match region a with
  | .common => encCommon a rw
  | .sockReg => encSockreg a rw
  | .txBuf => encTxbuf t a rw
  | .rxBuf => encRxbuf t a rw

/-- The frame as the list of bytes sent (R58, R81: `h0`, `h1`, `h2` in that order). -/
def Frame.bytes (f : Frame) : List Byte := [f.h0, f.h1, f.h2]

/-- The frame as the 24-bit number `{h0, h1, h2}` of R81. -/
def Frame.word (f : Frame) : BitVec 24 := f.h0 ++ f.h1 ++ f.h2

/-- The frame whose 24-bit number is `w` (R81). -/
def Frame.ofWord (w : BitVec 24) : Frame :=
  ⟨w.extractLsb' 16 8, w.extractLsb' 8 8, w.extractLsb' 0 8⟩

/-- `SNADDR(s, off)` of R136, its `0x0100` the parameter `SOCK_REG_STRIDE` of R9. -/
def Config.snAddr (c : Config) (s : BitVec 3) (off : Byte) : Half :=
  c.sockRegBase + s.setWidth 16 * c.sockRegStride + off.setWidth 16

/-- `TXBASE(s)` of R137. -/
def txBase (t : Tier) (s : BitVec 3) : Half := 0x8000 + s.setWidth 16 * t.ssize

/-- `RXBASE(s)` of R137. -/
def rxBase (t : Tier) (s : BitVec 3) : Half := 0xC000 + s.setWidth 16 * t.ssize

/-- The region class `h2[4:3]` names (R82). -/
def regionOfBits (b : BitVec 2) : Region :=
  match b.toNat with
  | 0 => .common
  | 1 => .sockReg
  | 2 => .txBuf
  | _ => .rxBuf

/-- `decode(h0, h1, h2)` of R88. -/
def Frame.fields (f : Frame) : FrameFields where
  region := regionOfBits (f.h2.extractLsb' 3 2)
  sock := f.h2.extractLsb' 5 3
  rw := f.h2.getLsbD 2
  om := f.h2.extractLsb' 0 2
  offset := f.h0 ++ f.h1

/-- The offset inside the socket's buffer of a buffer frame, `offset & (SSIZE - 1)` (R88). -/
def Frame.bufferOffset (t : Tier) (f : Frame) : Half := f.fields.offset &&& (t.ssize - 1)

/-- The invariants of R88 that every frame of a block of tier `t` satisfies; a frame that breaks one is refused (D37). -/
def Frame.produced (t : Tier) (f : Frame) : Bool :=
  f.fields.om == 0 &&
    match f.fields.region with
    | .common => f.h0 == 0 && f.fields.sock == 0
    | .sockReg => f.h0 == 0
    | .txBuf => f.h0.extractLsb' 6 2 == 0b10#2 && sockBits t f.fields.offset == f.h2 &&& 0xE0
    | .rxBuf => f.h0.extractLsb' 6 2 == 0b11#2 && sockBits t f.fields.offset == f.h2 &&& 0xE0

/-- The canonical logical address of a frame: the address itself in the regions that carry it whole, and the
canonical block `SNADDR(sock, h1)` of R53 in the socket-register region, whose frames do not carry `addr[15:11]`. -/
def Frame.canonicalAddr (c : Config) (f : Frame) : Half :=
  match f.fields.region with
  | .sockReg => c.snAddr f.fields.sock f.h1
  | _ => f.fields.offset

/-- The two bytes of a 16-bit datum, most significant first (R59, D11). -/
def wordBytes (v : Half) : List Byte := [hiByte v, loByte v]

/-- The 16-bit datum whose first byte on the bus is its high half (R59, R162, D11). -/
def wordOfBytes (b0 b1 : Byte) : Half := b0 ++ b1

end Sys2Proof
end

