-- ==== Sys2Proof/WellFormed.lean ====
section
/-! DEFINITION. Which terms of `Instr` are operations of a block built with a given configuration: an encoder row
belongs to its region and its tier (spec/opcode_table.json `config`, R125), and a WR carries `len` bytes (R22, R153). -/

namespace Sys2Proof

/-- The term is an operation of a block built with `c`. -/
def Instr.wf (c : Config) : Instr → Bool
  | .encCommonR addr _ => region addr == .common
  | .encCommonW addr _ => region addr == .common
  | .encSockregR addr _ => region addr == .sockReg
  | .encSockregW addr _ => region addr == .sockReg
  | .encTxbufR2K addr _ => region addr == .txBuf && c.tier == .k2
  | .encTxbufW2K addr _ => region addr == .txBuf && c.tier == .k2
  | .encTxbufR4K addr _ => region addr == .txBuf && c.tier == .k4
  | .encTxbufW4K addr _ => region addr == .txBuf && c.tier == .k4
  | .encTxbufR8K addr _ => region addr == .txBuf && c.tier == .k8
  | .encTxbufW8K addr _ => region addr == .txBuf && c.tier == .k8
  | .encTxbufR16K addr _ => region addr == .txBuf && c.tier == .k16
  | .encTxbufW16K addr _ => region addr == .txBuf && c.tier == .k16
  | .encRxbufR2K addr _ => region addr == .rxBuf && c.tier == .k2
  | .encRxbufW2K addr _ => region addr == .rxBuf && c.tier == .k2
  | .encRxbufR4K addr _ => region addr == .rxBuf && c.tier == .k4
  | .encRxbufW4K addr _ => region addr == .rxBuf && c.tier == .k4
  | .encRxbufR8K addr _ => region addr == .rxBuf && c.tier == .k8
  | .encRxbufW8K addr _ => region addr == .rxBuf && c.tier == .k8
  | .encRxbufR16K addr _ => region addr == .rxBuf && c.tier == .k16
  | .encRxbufW16K addr _ => region addr == .rxBuf && c.tier == .k16
  | .wr _ len wbuf => wbuf.length == len.toNat
  | .rd _ _ => true
  | .wr8 _ _ => true
  | .rd8 _ => true
  | .wr16 _ _ => true
  | .rd16 _ => true
  | .init => true
  | .link => true
  | .exec _ _ => true
  | .verify => true
  | .reserved0 => true
  | .reserved7 => true
  | .reservedC => true
  | .reservedD => true
  | .reservedE => true
  | .reservedF => true
  | .csCfg => true
  | .csLow => true
  | .csHigh => true
  | .softReset => true
  | .partition => true

end Sys2Proof
end

