-- ==== Sys2Proof/Decode.lean ====
section
/-! DEFINITION. From what stands at a port to an instruction or a rejection by name, and back (spec 30_encoding.md
R81 to R92). Three formats: FRAME (24 bits), HOSTOP (4 bits and the operand latches), UOP (3-bit label). -/

namespace Sys2Proof

/-- The encoder row that an address, a direction and a tier select (R125: dispatch by region). -/
def encInstr (t : Tier) (rw : Bool) (addr : Half) (sock : BitVec 3) : Instr :=
  match region addr, rw, t with
  | .common, false, _ => .encCommonR addr sock
  | .common, true, _ => .encCommonW addr sock
  | .sockReg, false, _ => .encSockregR addr sock
  | .sockReg, true, _ => .encSockregW addr sock
  | .txBuf, false, .k2 => .encTxbufR2K addr sock
  | .txBuf, true, .k2 => .encTxbufW2K addr sock
  | .txBuf, false, .k4 => .encTxbufR4K addr sock
  | .txBuf, true, .k4 => .encTxbufW4K addr sock
  | .txBuf, false, .k8 => .encTxbufR8K addr sock
  | .txBuf, true, .k8 => .encTxbufW8K addr sock
  | .txBuf, false, .k16 => .encTxbufR16K addr sock
  | .txBuf, true, .k16 => .encTxbufW16K addr sock
  | .rxBuf, false, .k2 => .encRxbufR2K addr sock
  | .rxBuf, true, .k2 => .encRxbufW2K addr sock
  | .rxBuf, false, .k4 => .encRxbufR4K addr sock
  | .rxBuf, true, .k4 => .encRxbufW4K addr sock
  | .rxBuf, false, .k8 => .encRxbufR8K addr sock
  | .rxBuf, true, .k8 => .encRxbufW8K addr sock
  | .rxBuf, false, .k16 => .encRxbufR16K addr sock
  | .rxBuf, true, .k16 => .encRxbufW16K addr sock

/-- FRAME: the encoder request whose frame is `w`, if a block of this configuration can send `w` at all (R88, D37).
The address is the canonical one and the `sock` input the frame's own `SOCK` field (log entry 10). -/
def decodeFrame (c : Config) (w : BitVec 24) : Except DecodeError Instr :=
  let f := Frame.ofWord w
  if f.produced c.tier then
    .ok (encInstr c.tier f.fields.rw (f.canonicalAddr c) f.fields.sock)
  else .error .frameNeverProduced

/-- HOSTOP: R90 for the ten operations, R92 for the six codes that name none. -/
def decodeHost (l : Latches) : Except DecodeError Instr :=
  match l.op.toNat with
  | 0x1 => if l.wbuf.length == l.len.toNat then .ok (.wr l.addr l.len l.wbuf) else .error .payloadLength
  | 0x2 => .ok (.rd l.addr l.len)
  | 0x3 => .ok (.wr8 l.addr (loByte l.val))
  | 0x4 => .ok (.rd8 l.addr)
  | 0x5 => .ok (.wr16 l.addr l.val)
  | 0x6 => .ok (.rd16 l.addr)
  | 0x8 => .ok .init
  | 0x9 => .ok .link
  | 0xA => .ok (.exec l.sock (loByte l.val))
  | 0xB => .ok .verify
  | 0x0 => .ok .reserved0
  | 0x7 => .ok .reserved7
  | 0xC => .ok .reservedC
  | 0xD => .ok .reservedD
  | 0xE => .ok .reservedE
  | _ => .ok .reservedF

/-- UOP: the labels of R91. -/
def decodeUop (label : BitVec 3) : Except DecodeError Instr :=
  match label.toNat with
  | 0b000 => .ok .csCfg
  | 0b001 => .ok .csLow
  | 0b010 => .ok .csHigh
  | 0b011 => .ok .softReset
  | 0b100 => .ok .partition
  | _ => .error .noMicroOperation

/-- The instruction that a word at a port stands for, in a block built with `c`. -/
def decode (c : Config) : PortWord → Except DecodeError Instr
  | .host l => decodeHost l
  | .enc rw addr sock => .ok (encInstr c.tier rw addr sock)
  | .frame w => decodeFrame c w
  | .uop label => decodeUop label

/-- The latches of an operation that uses none but `op`. -/
def Latches.opOnly (op : BitVec 4) : Latches := ⟨op, 0, 0, 0, 0, []⟩

/-- The word at a port that stands for a well-formed instruction: R32 for the encoder, R90 and R92 for the host port
(latches that the operation does not use are zero), R91 for the labels. -/
def encode : Instr → PortWord
  | .encCommonR addr sock => .enc false addr sock
  | .encCommonW addr sock => .enc true addr sock
  | .encSockregR addr sock => .enc false addr sock
  | .encSockregW addr sock => .enc true addr sock
  | .encTxbufR2K addr sock => .enc false addr sock
  | .encTxbufW2K addr sock => .enc true addr sock
  | .encTxbufR4K addr sock => .enc false addr sock
  | .encTxbufW4K addr sock => .enc true addr sock
  | .encTxbufR8K addr sock => .enc false addr sock
  | .encTxbufW8K addr sock => .enc true addr sock
  | .encTxbufR16K addr sock => .enc false addr sock
  | .encTxbufW16K addr sock => .enc true addr sock
  | .encRxbufR2K addr sock => .enc false addr sock
  | .encRxbufW2K addr sock => .enc true addr sock
  | .encRxbufR4K addr sock => .enc false addr sock
  | .encRxbufW4K addr sock => .enc true addr sock
  | .encRxbufR8K addr sock => .enc false addr sock
  | .encRxbufW8K addr sock => .enc true addr sock
  | .encRxbufR16K addr sock => .enc false addr sock
  | .encRxbufW16K addr sock => .enc true addr sock
  | .wr addr len wbuf => .host ⟨0x1, addr, 0, len, 0, wbuf⟩
  | .rd addr len => .host ⟨0x2, addr, 0, len, 0, []⟩
  | .wr8 addr v => .host ⟨0x3, addr, 0, 0, v.setWidth 16, []⟩
  | .rd8 addr => .host ⟨0x4, addr, 0, 0, 0, []⟩
  | .wr16 addr v => .host ⟨0x5, addr, 0, 0, v, []⟩
  | .rd16 addr => .host ⟨0x6, addr, 0, 0, 0, []⟩
  | .init => .host (.opOnly 0x8)
  | .link => .host (.opOnly 0x9)
  | .exec sock c => .host ⟨0xA, 0, sock, 0, c.setWidth 16, []⟩
  | .verify => .host (.opOnly 0xB)
  | .reserved0 => .host (.opOnly 0x0)
  | .reserved7 => .host (.opOnly 0x7)
  | .reservedC => .host (.opOnly 0xC)
  | .reservedD => .host (.opOnly 0xD)
  | .reservedE => .host (.opOnly 0xE)
  | .reservedF => .host (.opOnly 0xF)
  | .csCfg => .uop 0b000
  | .csLow => .uop 0b001
  | .csHigh => .uop 0b010
  | .softReset => .uop 0b011
  | .partition => .uop 0b100

/-- The tiers in the order of R7. -/
def tiers : List Tier := [.k2, .k4, .k8, .k16]

/-- The smallest tier whose block can send the frame `w` (rows of several tiers share words: log entry 13). -/
def frameTier (w : BitVec 24) : Option Tier :=
  tiers.find? fun t => (Frame.ofWord w).produced t

/-- The port word of a word of spec/opcode_table.json with `nbits` bits: 24 bits a frame, 3 bits a micro-operation's
label, 4 bits or a whole byte an operation code with operand latches of zero (log entry 13). -/
def tableWord (nbits w : Nat) : Option PortWord :=
  if nbits = 24 then some (.frame (BitVec.ofNat 24 w))
  else if nbits = 3 ∧ w < 8 then some (.uop (BitVec.ofNat 3 w))
  else if (nbits = 4 ∨ nbits = 8) ∧ w < 16 then some (.host (.opOnly (BitVec.ofNat 4 w)))
  else none

/-- The configuration under which a table word is read: the given one, with the word's tier where the given one's block
cannot send the frame (log entry 13). -/
def tableConfig (c : Config) : PortWord → Config
  | .frame w =>
    match decodeFrame c w, frameTier w with
    | .error _, some t => c.withTier t
    | _, _ => c
  | .host _ => c
  | .enc _ _ _ => c
  | .uop _ => c

/-- The instruction the decoder reads from the table word `w` of `nbits` bits, in the default configuration. -/
def decodeTableWord (nbits w : Nat) : Option Instr :=
  match tableWord nbits w with
  | none => none
  | some p => (decode (tableConfig .default p) p).toOption

end Sys2Proof
end

