-- ==== Sys2Proof/Machine/State.lean ====
section
/-! DEFINITION. The state of the block as plain data (spec 10_state.md R20 to R37), its environment's queues, and the
reasons a step can stop. -/

namespace Sys2Proof.Machine

/-- The eight bytes of the frame buffer `fb[0..7]` (R21). -/
structure FrameBuf where
  b0 : Byte
  b1 : Byte
  b2 : Byte
  b3 : Byte
  b4 : Byte
  b5 : Byte
  b6 : Byte
  b7 : Byte
  deriving DecidableEq, Repr

/-- `chip_state` (R23); its 2-bit codes are `ChipState.code` in Machine/Flags.lean. -/
inductive ChipState where
  | uninitialized
  | resetInProgress
  | identityVerified
  | operational
  deriving DecidableEq, Repr

/-- `res_link` (R28, R39); its 2-bit codes are `LinkStatus.code` in Machine/Flags.lean. -/
inductive LinkStatus where
  | unknown
  | up
  | down
  deriving DecidableEq, Repr

/-- `phase` (R24): `IDLE` and the step labels of the pseudocode of R182 (INIT), R183 (SR), R184 (VF), R186 (LK) and
R187 (EX). -/
inductive Phase where
  | idle
  | initLatch
  | initSettle
  | initCscfg
  | initOpen
  | initVerify
  | initPart
  | initClose
  | srWrite
  | srPoll
  | vfReset
  | vfS1
  | vfS2
  | vfS3
  | vfVersion
  | lkInit
  | lkRead
  | exWrite
  | exPoll
  deriving DecidableEq, Repr

/-- The causes of initialization failure (R241); ghost data (D22): no port shows them. -/
inductive Cause where
  | resetTimeout
  | sentinel1
  | sentinel2
  | sentinel3
  | version
  deriving DecidableEq, Repr

/-- The event alphabet of R12. In `xfer out rx`, `rx` is what the bus answered, a byte for each byte sent. -/
inductive Event where
  | delay (units : Nat)
  | csDirOut
  | csHigh
  | csLow
  | busBegin
  | busEnd
  | xfer (out rx : List Byte)
  deriving DecidableEq, Repr

/-- The result registers (R28). -/
structure Results where
  ok : Bool
  count : Half
  link : LinkStatus
  val : Half
  rbuf : List Byte
  deriving DecidableEq, Repr

/-- The levels on the encoder's combinational port (R32): the inputs of the last request, `rw` of R22 among them, and
the three output bytes `hdr[0..2]`. Wires, not state of the block: no rule reads them (log entry 9). -/
structure EncPort where
  addr : Half
  rw : Bool
  sock : BitVec 3
  hdr : Frame
  deriving DecidableEq, Repr

/-- The whole state of the block (R20) and, after `trace`, what the model keeps beside it: the ghost cause of R241, the
encoder's port, what the environment answers on the bus (R62) and the operations it has still to issue (R285). -/
structure State where
  /-- the build-time configuration, which no step changes (R31; log entry 2) -/
  cfg : Config
  /-- `chip_state` (R23) -/
  chipState : ChipState
  /-- `phase` (R24) -/
  phase : Phase
  /-- `busy` (R29) -/
  busy : Bool
  /-- `cs_oe` (R25) -/
  csOe : Bool
  /-- `cs_n` (R25): false = asserted -/
  csN : Bool
  /-- `bus_open` (R26) -/
  busOpen : Bool
  /-- `poll_count` (R27) -/
  pollCount : BitVec 5
  /-- `fb[0..7]` (R21) -/
  fb : FrameBuf
  /-- the operand latches (R22) -/
  latch : Latches
  /-- the result registers (R28) -/
  res : Results
  /-- `trace` (R12, R35): ghost state, the events so far, oldest first -/
  trace : List Event
  /-- the cause of the last INIT's, VERIFY's or SOFTRESET's failure (R241); ghost -/
  cause : Option Cause
  /-- the encoder's combinational port (R32) -/
  enc : EncPort
  /-- the bytes the environment will answer, from the first byte ever received (R62; log entry 4) -/
  answers : List Byte
  /-- how many bytes have been received so far (log entry 4) -/
  drawn : Nat
  /-- what the environment has still to put at the block's ports, next first (R285; log entry 11) -/
  offers : List PortWord
  deriving DecidableEq, Repr

/-- The block has no fault mechanism (R240 "never raises", the last line of 93_implementation_defined.md part 1), so there
is no reason to fault. -/
inductive Fault where
  deriving DecidableEq, Repr

/-- Why the model has no step. All are safe: the model stops where the spec refuses or gives no step. -/
inductive Refusal where
  /-- raised by `exec` for an instruction that has no meaning yet; safe -/
  | notModelled (mnemonic : String)
  /-- raised by `step` and every meaning under a configuration outside its legal range (R6, D32, U8); safe -/
  | illegalConfiguration
  /-- raised by a host operation's meaning while another operation runs (R29, U4); safe -/
  | operationInProgress
  /-- raised by an operation that needs the bus while `cs_oe = 0` (R167, R112, U7); safe -/
  | pinNotConfigured
  /-- raised by the six operation codes that name no operation (R92, U15); safe -/
  | reservedOpcode (code : BitVec 4)
  /-- raised by an encoder row of a tier this block was not built with (R6, R7; log entry 10); safe -/
  | tierNotConfigured
  /-- raised by CSLOW while the chip is already selected (R112's precondition, R114); safe -/
  | transactionAlreadyOpen
  /-- raised by CSHIGH while the chip is not selected (R113's precondition); safe -/
  | noTransactionOpen
  /-- raised by `step` for a micro-operation's label at a port (R91); safe -/
  | microOperationAtPort
  /-- raised by `step` for a word at a port that the decoder rejects (R22, R88, R91); safe -/
  | rejected (e : DecodeError)
  /-- raised by `step` in a busy state whose phase is no label of the latched operation; no run reaches one
  (log entry 16); safe -/
  | noSuchPhase
  deriving DecidableEq, Repr

/-- The state right after block reset (R37, R270) of a block built with `c`. Values that R37 leaves unspecified are
zero (log entry 5); the environment has written out no answer and no operation. -/
def State.resetWith (c : Config) : State where
  cfg := c
  chipState := .uninitialized
  phase := .idle
  busy := false
  csOe := false
  csN := false
  busOpen := false
  pollCount := 0
  fb := ⟨0, 0, 0, 0, 0, 0, 0, 0⟩
  latch := ⟨0, 0, 0, 0, 0, []⟩
  res := ⟨false, 0, .unknown, 0, []⟩
  trace := []
  cause := none
  enc := ⟨0, false, 0, ⟨0, 0, 0⟩⟩
  answers := []
  drawn := 0
  offers := []

/-- The state right after block reset in the default configuration (log entry 3). -/
def State.reset : State := State.resetWith Config.default

/-- Block reset taken in state `s` (R270, R37): the configuration is "as built; not affected by reset"; the environment
keeps what it has not yet done. No step performs it (log entry 17). -/
def State.blockReset (s : State) : State :=
  { State.resetWith s.cfg with answers := s.answers, drawn := s.drawn, offers := s.offers }

end Sys2Proof.Machine
end

