-- ==== Sys2Proof/Machine/Ops.lean ====
section
/-! DEFINITION. The named operations every meaning is built from: events, the bus oracle, chip select, the bus lock,
bursts, the two transactions, and failure entry (spec 00_scope.md R11, R12; 20_memory.md R62; 40_chip_select.md R111
to R115; 42_register_access.md R153, R156; 43_chip_controller.md R190; 60_exceptions.md R245). -/

namespace Sys2Proof.Machine

/-- `emit e` of R11. -/
def State.emit (s : State) (e : Event) : State := { s with trace := s.trace ++ [e] }

/-- `phase <- p` of R11. -/
def State.enter (s : State) (p : Phase) : State := { s with phase := p }

/-- The byte the bus answers at place `i` of the run (R62): the environment's written answer, else a free value. -/
def State.oracle (s : State) (i : Nat) : Byte := (s.answers[i]?).getD (Config.freeByte i)

/-- The next `n` bytes the bus will answer (R62). -/
def State.draws (s : State) (n : Nat) : List Byte := (List.range n).map fun k => s.oracle (s.drawn + k)

/-- `Burst(out)` of R11, R33: one `XFER` of `|out|` bytes each way. -/
def State.burst (s : State) (out : List Byte) : State :=
  { s with drawn := s.drawn + out.length, trace := s.trace ++ [.xfer out (s.draws out.length)] }

/-- `Delay(u)` of R11, R34. -/
def State.delay (s : State) (units : Nat) : State := s.emit (.delay units)

/-- `CSCFG` of R111: direction to output, then the line high. -/
def State.configurePin (s : State) : State :=
  { s with csOe := true, csN := true, trace := s.trace ++ [.csDirOut, .csHigh] }

/-- `CSLOW` of R112. -/
def State.selectChip (s : State) : State := { s with csN := false, trace := s.trace ++ [.csLow] }

/-- `CSHIGH` of R113. -/
def State.deselectChip (s : State) : State := { s with csN := true, trace := s.trace ++ [.csHigh] }

/-- `BusBegin()` with `bus_open <- 1` (R26, R190). -/
def State.openBus (s : State) : State := { s with busOpen := true, trace := s.trace ++ [.busBegin] }

/-- `BusEnd()` with `bus_open <- 0` (R26, R190). -/
def State.closeBus (s : State) : State := { s with busOpen := false, trace := s.trace ++ [.busEnd] }

/-- The frame buffer as the list `fb[0..7]`. -/
def FrameBuf.bytes (b : FrameBuf) : List Byte := [b.b0, b.b1, b.b2, b.b3, b.b4, b.b5, b.b6, b.b7]

/-- `fb[0..|l|-1] <- l`; the bytes past the list keep their value. -/
def FrameBuf.load (b : FrameBuf) (l : List Byte) : FrameBuf :=
  ⟨l.getD 0 b.b0, l.getD 1 b.b1, l.getD 2 b.b2, l.getD 3 b.b3, l.getD 4 b.b4, l.getD 5 b.b5, l.getD 6 b.b6, l.getD 7 b.b7⟩

/-- Writing the frame buffer (R21). -/
def State.loadFrame (s : State) (l : List Byte) : State := { s with fb := s.fb.load l }

/-- `Burst(fb[0..n-1])`. -/
def State.burstFrame (s : State) (n : Nat) : State := s.burst (s.fb.bytes.take n)

/-- The frame of the block's own encoder: `ENC(addr, rw)` under the configured tier (R125). -/
def State.frameOf (s : State) (addr : Half) (rw : Bool) : Frame := Sys2Proof.enc s.cfg.tier addr rw

/-- The write transaction `WR(addr, payload)` of R153, less its return value. -/
def State.busWrite (s : State) (addr : Half) (payload : List Byte) : State :=
  let hdr := (s.frameOf addr true).bytes
  if payload.length ≤ coalesceMax then
    ((s.selectChip.loadFrame (hdr ++ payload)).burstFrame (payload.length + 3)).deselectChip
  else
    (((s.selectChip.loadFrame hdr).burstFrame 3).burst payload).deselectChip

/-- What the read transaction of R156 sends before its payload: select, the frame, the header burst. -/
def State.busReadHeader (s : State) (addr : Half) : State :=
  (s.selectChip.loadFrame (s.frameOf addr false).bytes).burstFrame 3

/-- The read transaction `RD(addr, n)` of R156 and the bytes it returns. The bytes sent are the cleared destination
(R157); a burst of no bytes is not issued (R163). -/
def State.busRead (s : State) (addr : Half) (n : Nat) : State × List Byte :=
  let s1 := s.busReadHeader addr
  if n = 0 then (s1.deselectChip, [])
  else ((s1.burst (List.replicate n 0x00)).deselectChip, s1.draws n)

/-- `WR8` as the controller uses it: `WR(addr, [v])` (R159). -/
def State.write8 (s : State) (addr : Half) (v : Byte) : State := s.busWrite addr [v]

/-- `RD8` as the controller uses it: the one byte of `RD(addr, 1)` (R160). -/
def State.read8 (s : State) (addr : Half) : State × Byte :=
  ((s.busRead addr 1).1, (s.busRead addr 1).2.headD 0x00)

/-- A host operation begins (R32): the latches hold it and `busy` is 1. -/
def State.start (s : State) (l : Latches) : State := { s with busy := true, latch := l }

/-- An operation ends (R24, R32): `busy` is 0 and `phase` is `IDLE`. -/
def State.finish (s : State) : State := { s with busy := false, phase := .idle }

/-- FAILURE ENTRY of INIT (R245, R189): `BUS_END`, the latch stays clear, `res_ok` 0. The cause is ghost (R241). -/
def State.failInit (s : State) (c : Cause) : State :=
  { s.closeBus with chipState := .uninitialized, res := { s.res with ok := false }, cause := some c }

/-- The conditions under which a host operation is accepted: a legal configuration (R6), no operation running (R29),
and, where it uses the bus before configuring the pin, `cs_oe = 1` (R167). -/
def hostOp (s : State) (needsPin : Bool) (run : State → State) : Host.Outcome State Fault Refusal :=
  if !s.cfg.legal then .refused .illegalConfiguration
  else if s.busy then .refused .operationInProgress
  else if needsPin && !s.csOe then .refused .pinNotConfigured
  else .next (run s)

/-- The same for a micro-operation, a step inside a running operation (R91): it has no condition on `busy`. -/
def microOp (s : State) (needsPin : Bool) (run : State → State) : Host.Outcome State Fault Refusal :=
  if !s.cfg.legal then .refused .illegalConfiguration
  else if needsPin && !s.csOe then .refused .pinNotConfigured
  else .next (run s)

/-- The encoder's combinational port is driven (R32, R131): nothing but the port's own levels changes. `built` says that
the block has the row's tier. -/
def encPort (s : State) (built : Bool) (addr : Half) (rw : Bool) (sock : BitVec 3) (f : Frame) :
    Host.Outcome State Fault Refusal :=
  if !s.cfg.legal then .refused .illegalConfiguration
  else if !built then .refused .tierNotConfigured
  else .next { s with enc := ⟨addr, rw, sock, f⟩ }

end Sys2Proof.Machine
end

