-- ==== Sys2Proof/Machine/Flags.lean ====
section
/-! DEFINITION. The result registers and status codes (spec 10_state.md R23, R28, R29; 60_exceptions.md R241). The block
has no condition codes and no arithmetic flags (R29). -/

namespace Sys2Proof.Machine

/-- The 2-bit codes of `chip_state` (R23). -/
def ChipState.code : ChipState → BitVec 2
  | .uninitialized => 0
  | .resetInProgress => 1
  | .identityVerified => 2
  | .operational => 3

/-- The 2-bit codes of `res_link` (R28). -/
def LinkStatus.code : LinkStatus → BitVec 2
  | .unknown => 0
  | .up => 1
  | .down => 2

/-- The codes of the failure causes (R241). -/
def Cause.code : Cause → Nat
  | .resetTimeout => 1
  | .sentinel1 => 2
  | .sentinel2 => 3
  | .sentinel3 => 4
  | .version => 5

/-- The latch of R23: `initialized := (chip_state = Operational)`. -/
def State.initialized (s : State) : Bool := s.chipState == .operational

/-- `res_count <- n` (R152). -/
def State.returnCount (s : State) (n : Half) : State := { s with res := { s.res with count := n } }

/-- `rbuf <- data` and `res_count <- n` (R156). -/
def State.returnData (s : State) (data : List Byte) (n : Half) : State :=
  { s with res := { s.res with rbuf := data, count := n } }

/-- `res_val <- v` (R160, R162). -/
def State.returnValue (s : State) (v : Half) : State := { s with res := { s.res with val := v } }

/-- `res_ok` and the ghost cause of an identity verification's end (R28, R241). -/
def State.returnVerdict (s : State) (c : Option Cause) : State :=
  { s with res := { s.res with ok := c.isNone }, cause := c }

/-- `res_link <- l` (R186). -/
def State.returnLink (s : State) (l : LinkStatus) : State := { s with res := { s.res with link := l } }

/-- The link status that the status byte `p` reports (R186, D21): Up when the link bit is set. -/
def linkOf (mask p : Byte) : LinkStatus := if p &&& mask = 0x00 then .down else .up

end Sys2Proof.Machine
end

