-- ==== Sys2Proof/Machine/Operands.lean ====
section
/-! DEFINITION. The operand forms of the host operations: which latches each loads (spec 10_state.md R22, 30_encoding.md
R90). A latch the operation does not use keeps its value (log entry 6). -/

namespace Sys2Proof.Machine

/-- WR: `addr`, `len`, `wbuf`. -/
def latchWr (l : Latches) (addr len : Half) (wbuf : List Byte) : Latches :=
  { l with op := 0x1, addr := addr, len := len, wbuf := wbuf }

/-- RD: `addr`, `len`. -/
def latchRd (l : Latches) (addr len : Half) : Latches := { l with op := 0x2, addr := addr, len := len }

/-- WR8: `addr`, `val[7:0]`. -/
def latchWr8 (l : Latches) (addr : Half) (v : Byte) : Latches :=
  { l with op := 0x3, addr := addr, val := v.setWidth 16 }

/-- RD8: `addr`. -/
def latchRd8 (l : Latches) (addr : Half) : Latches := { l with op := 0x4, addr := addr }

/-- WR16: `addr`, `val[15:0]`. -/
def latchWr16 (l : Latches) (addr v : Half) : Latches := { l with op := 0x5, addr := addr, val := v }

/-- RD16: `addr`. -/
def latchRd16 (l : Latches) (addr : Half) : Latches := { l with op := 0x6, addr := addr }

/-- INIT, LINK, VERIFY: no operand. -/
def latchOp (l : Latches) (op : BitVec 4) : Latches := { l with op := op }

/-- EXEC: `sock`, `val[7:0]`. -/
def latchExec (l : Latches) (sock : BitVec 3) (c : Byte) : Latches :=
  { l with op := 0xA, sock := sock, val := c.setWidth 16 }

end Sys2Proof.Machine
end

