-- ==== Sys2Proof/Machine/Access.lean ====
section
/-! DEFINITION. The Register Access Layer's host operations (spec 42_register_access.md R150 to R167). Each is one
transaction; none has a failure path (R158); all are refused while `cs_oe = 0` (R167). -/

namespace Sys2Proof.Machine

/-- WR (R153). -/
def execWr (addr len : Half) (wbuf : List Byte) (s : State) : Host.Outcome State Fault Refusal :=
  hostOp s true fun s =>
    (((s.start (latchWr s.latch addr len wbuf)).busWrite addr wbuf).returnCount len).finish

/-- RD (R156). -/
def execRd (addr len : Half) (s : State) : Host.Outcome State Fault Refusal :=
  hostOp s true fun s =>
    let r := (s.start (latchRd s.latch addr len)).busRead addr len.toNat
    (r.1.returnData r.2 len).finish

/-- WR8 (R159): `WR(addr, [v], 1)`. -/
def execWr8 (addr : Half) (v : Byte) (s : State) : Host.Outcome State Fault Refusal :=
  hostOp s true fun s =>
    (((s.start (latchWr8 s.latch addr v)).write8 addr v).returnCount 1).finish

/-- RD8 (R160): `rbuf <- RD(addr, 1)`, `res_val` the byte widened with zeros. -/
def execRd8 (addr : Half) (s : State) : Host.Outcome State Fault Refusal :=
  hostOp s true fun s =>
    let r := (s.start (latchRd8 s.latch addr)).busRead addr 1
    ((r.1.returnData r.2 1).returnValue ((r.2.headD 0x00).setWidth 16)).finish

/-- WR16 (R161): `WR(addr, [v[15:8], v[7:0]], 2)`. -/
def execWr16 (addr v : Half) (s : State) : Host.Outcome State Fault Refusal :=
  hostOp s true fun s =>
    (((s.start (latchWr16 s.latch addr v)).busWrite addr (wordBytes v)).returnCount 2).finish

/-- RD16 (R162): `rbuf <- RD(addr, 2)`, `res_val <- {rbuf[0], rbuf[1]}`. -/
def execRd16 (addr : Half) (s : State) : Host.Outcome State Fault Refusal :=
  hostOp s true fun s =>
    let r := (s.start (latchRd16 s.latch addr)).busRead addr 2
    ((r.1.returnData r.2 2).returnValue (wordOfBytes (r.2.getD 0 0x00) (r.2.getD 1 0x00))).finish

end Sys2Proof.Machine
end

