-- ==== Sys2Proof/Machine/ChipSelect.lean ====
section
/-! DEFINITION. The Chip Select Controller's micro-operations (spec 40_chip_select.md R110 to R117), with the
preconditions R112 and R113 state (log entry 12). -/

namespace Sys2Proof.Machine

/-- CSCFG (R111). -/
def execCsCfg (s : State) : Host.Outcome State Fault Refusal := microOp s false State.configurePin

/-- CSLOW (R112): precondition `cs_oe = 1` and `cs_n = 1`. -/
def execCsLow (s : State) : Host.Outcome State Fault Refusal :=
  if s.cfg.legal && s.csOe && !s.csN then .refused .transactionAlreadyOpen else microOp s true State.selectChip

/-- CSHIGH (R113): precondition `cs_n = 0`. -/
def execCsHigh (s : State) : Host.Outcome State Fault Refusal :=
  if s.cfg.legal && s.csOe && s.csN then .refused .noTransactionOpen else microOp s true State.deselectChip

end Sys2Proof.Machine
end

