-- ==== Sys2Proof/Machine/Controller.lean ====
section
/-! DEFINITION. The Chip Controller (spec 43_chip_controller.md R180 to R195): soft reset, identity verification, buffer
partition, INIT, LINK and EXEC, one function for each step label, each running to the end of its operation (R29). The
functions `…From` run an operation on from any of its labels (R24). -/

namespace Sys2Proof.Machine

/-- `r` is what a step answered; go on with `next` if it did not fail. -/
def onSuccess (r : State × Option Cause) (next : State → State × Option Cause) : State × Option Cause :=
  match r.2 with
  | none => next r.1
  | some c => (r.1, some c)

/-- `SR.poll` of R183 with `n` attempts left: read, and on a non-zero byte delay, count, and go round. -/
def srPoll : Nat → State → State × Option Cause
  | 0, s => (s, some .resetTimeout)
  | n + 1, s =>
    let r := (s.enter .srPoll).read8 s.cfg.mrAddr
    if r.2 = 0x00 then (r.1, none)
    else srPoll n { r.1.delay pollSpacing with pollCount := r.1.pollCount + 1 }

/-- SOFTRESET (R183). -/
def softReset (s : State) : State × Option Cause :=
  srPoll softResetAttempts
    { (s.enter .srWrite).write8 s.cfg.mrAddr s.cfg.rstCmd with pollCount := 0 }

/-- Write a sentinel to the mode register, read it back, compare the whole byte (`VF.s1` to `VF.s3` of R184). -/
def sentinelCheck (p : Phase) (pattern : Byte) (c : Cause) (s : State) : State × Option Cause :=
  let r := ((s.enter p).write8 s.cfg.mrAddr pattern).read8 s.cfg.mrAddr
  (r.1, if r.2 = pattern then none else some c)

/-- `VF.version` of R184. -/
def vfVersion (s : State) : State × Option Cause :=
  let r := (s.enter .vfVersion).read8 s.cfg.versionAddr
  (r.1, if r.2 = s.cfg.versionConst then none else some .version)

/-- VERIFY from `VF.s3` on. -/
def vfS3 (s : State) : State × Option Cause :=
  onSuccess (sentinelCheck .vfS3 s.cfg.sentinel3 .sentinel3 s) vfVersion

/-- VERIFY from `VF.s2` on. -/
def vfS2 (s : State) : State × Option Cause :=
  onSuccess (sentinelCheck .vfS2 s.cfg.sentinel2 .sentinel2 s) vfS3

/-- VERIFY from `VF.s1` on. -/
def vfS1 (s : State) : State × Option Cause :=
  onSuccess (sentinelCheck .vfS1 s.cfg.sentinel1 .sentinel1 s) vfS2

/-- VERIFY (R184): the state it ends in and, on failure, the cause. -/
def verify (s : State) : State × Option Cause := onSuccess (softReset (s.enter .vfReset)) vfS1

/-- VERIFY from any of its labels, those of the SOFTRESET inside it among them. -/
def verifyFrom (p : Phase) (s : State) : Option (State × Option Cause) :=
  match p with
  | .vfReset => some (verify s)
  | .srWrite => some (onSuccess (softReset s) vfS1)
  | .srPoll => some (onSuccess (srPoll (softResetAttempts - s.pollCount.toNat) s) vfS1)
  | .vfS1 => some (vfS1 s)
  | .vfS2 => some (vfS2 s)
  | .vfS3 => some (vfS3 s)
  | .vfVersion => some (vfVersion s)
  | _ => none

/-- Write both size registers of socket `i`, receive before transmit (R185). -/
def writeSizes (s : State) (i : Nat) : State :=
  let sock := BitVec.ofNat 3 i
  (s.write8 (s.cfg.snAddr sock s.cfg.snRxSizeOff) (s.cfg.sizeCode i)).write8
    (s.cfg.snAddr sock s.cfg.snTxSizeOff) (s.cfg.sizeCode i)

/-- PARTITION (R185): nothing when large buffers are off, else the sockets in ascending order, active ones first. -/
def partition (s : State) : State :=
  if s.cfg.largeBuffers then (List.range chipSockets).foldl writeSizes s else s

/-- `INIT.close` of R182: the lock is released and the latch is set. -/
def initClose (s : State) : State :=
  { ((s.enter .initClose).closeBus).returnVerdict none with chipState := .operational }

/-- INIT from `INIT.part` on. -/
def initPart (s : State) : State := initClose (partition (s.enter .initPart))

/-- INIT after its VERIFY has answered (R182, R245). -/
def initAfterVerify (r : State × Option Cause) : State :=
  match r.2 with
  | none => initPart { r.1 with chipState := .identityVerified }
  | some c => r.1.failInit c

/-- INIT from `INIT.verify` on. -/
def initVerify (s : State) : State := initAfterVerify (verify (s.enter .initVerify))

/-- INIT from `INIT.open` on. -/
def initOpen (s : State) : State := initVerify { (s.enter .initOpen).openBus with chipState := .resetInProgress }

/-- INIT from `INIT.cscfg` on. -/
def initCscfg (s : State) : State := initOpen (s.enter .initCscfg).configurePin

/-- INIT from `INIT.settle` on. -/
def initSettle (s : State) : State := initCscfg ((s.enter .initSettle).delay s.cfg.resetSettleUnits)

/-- INIT (R182): at once success when the latch is set (R188), else the whole sequence. -/
def bringUp (s : State) : State :=
  if s.chipState = .operational then (s.enter .initLatch).returnVerdict none else initSettle (s.enter .initLatch)

/-- INIT from any of its labels, those of the VERIFY inside it among them. -/
def initFrom (p : Phase) (s : State) : Option State :=
  match p with
  | .initLatch => some (bringUp s)
  | .initSettle => some (initSettle s)
  | .initCscfg => some (initCscfg s)
  | .initOpen => some (initOpen s)
  | .initVerify => some (initVerify s)
  | .initPart => some (initPart s)
  | .initClose => some (initClose s)
  | _ => (verifyFrom p s).map initAfterVerify

/-- `LK.read` of R186. -/
def linkRead (s : State) : State :=
  let r := (s.enter .lkRead).read8 s.cfg.phyAddr
  r.1.returnLink (linkOf s.cfg.linkMask r.2)

/-- LINK after the INIT inside it has ended (R186): Unknown if that failed. -/
def linkAfterInit (s : State) : State := if s.res.ok then linkRead s else s.returnLink .unknown

/-- LINK (R186). -/
def linkStatus (s : State) : State := linkAfterInit (bringUp (s.enter .lkInit))

/-- LINK from any of its labels. -/
def linkFrom (p : Phase) (s : State) : Option State :=
  match p with
  | .lkInit => some (linkStatus s)
  | .lkRead => some (linkRead s)
  | _ => (initFrom p s).map linkAfterInit

/-- `EX.poll` of R187, one iteration: the operation ends when the whole byte is zero, and otherwise the block stays busy
at the same label (R192: no bound, no delay, no escape). -/
def execPoll (s : State) : State :=
  let r := (s.enter .exPoll).read8 (s.cfg.snAddr s.latch.sock s.cfg.snCrOff)
  if r.2 = 0x00 then r.1.finish else r.1

/-- EXEC from `EX.write` on (R187), through its first poll: `val[7:0]` is the command code. -/
def execWrite (s : State) : State :=
  execPoll ((s.enter .exWrite).write8 (s.cfg.snAddr s.latch.sock s.cfg.snCrOff) (loByte s.latch.val))

/-- EXEC from any of its labels. -/
def execFrom (p : Phase) (s : State) : Option State :=
  match p with
  | .exWrite => some (execWrite s)
  | .exPoll => some (execPoll s)
  | _ => none

/-- INIT (R182), issued by the host. -/
def execInit (s : State) : Host.Outcome State Fault Refusal :=
  hostOp s false fun s => (bringUp (s.start (latchOp s.latch 0x8))).finish

/-- LINK (R186). -/
def execLink (s : State) : Host.Outcome State Fault Refusal :=
  hostOp s false fun s => (linkStatus (s.start (latchOp s.latch 0x9))).finish

/-- EXEC (R187). -/
def execExec (sock : BitVec 3) (c : Byte) (s : State) : Host.Outcome State Fault Refusal :=
  hostOp s true fun s => execWrite (s.start (latchExec s.latch sock c))

/-- VERIFY (R184), issued by the host: it writes `res_ok` and leaves `chip_state` and the bus lock alone. -/
def execVerify (s : State) : Host.Outcome State Fault Refusal :=
  hostOp s true fun s =>
    let r := verify (s.start (latchOp s.latch 0xB))
    (r.1.returnVerdict r.2).finish

/-- SOFTRESET (R183) as a step of its own: its result is the ghost cause (log entry 8), and control is back where it was. -/
def execSoftReset (s : State) : Host.Outcome State Fault Refusal :=
  microOp s true fun s =>
    let r := softReset s
    { r.1 with cause := r.2, phase := s.phase }

/-- PARTITION (R185) as a step of its own: it uses the bus in large-buffer mode only. -/
def execPartition (s : State) : Host.Outcome State Fault Refusal := microOp s s.cfg.largeBuffers partition

/-- A busy block runs its operation on from the label it stands at (R24, R29). Between the steps of a run only an EXEC
stands so, at `EX.poll` (log entry 1). -/
def resume (s : State) : Host.Outcome State Fault Refusal :=
  let answer (r : Option State) : Host.Outcome State Fault Refusal :=
    match r with
    | some t => .next t
    | none => .refused .noSuchPhase
  match s.latch.op.toNat with
  | 0x8 => answer ((initFrom s.phase s).map State.finish)
  | 0x9 => answer ((linkFrom s.phase s).map State.finish)
  | 0xA => answer (execFrom s.phase s)
  | 0xB => answer ((verifyFrom s.phase s).map fun r => (r.1.returnVerdict r.2).finish)
  | _ => .refused .noSuchPhase

end Sys2Proof.Machine
end

