-- ==== Sys2Proof/Machine/EncoderPort.lean ====
section
/-! DEFINITION. The meanings of the twenty encoder rows (spec 41_encoder.md R125 to R133): the port's output is the
frame; the `sock` input is accepted and ignored; nothing else changes. -/

namespace Sys2Proof.Machine

/-- ENC.COMMON.R (R126). -/
def execEncCommonR (addr : Half) (sock : BitVec 3) (s : State) : Host.Outcome State Fault Refusal :=
  encPort s true addr false sock (encCommon addr false)

/-- ENC.COMMON.W (R126). -/
def execEncCommonW (addr : Half) (sock : BitVec 3) (s : State) : Host.Outcome State Fault Refusal :=
  encPort s true addr true sock (encCommon addr true)

/-- ENC.SOCKREG.R (R127). -/
def execEncSockregR (addr : Half) (sock : BitVec 3) (s : State) : Host.Outcome State Fault Refusal :=
  encPort s true addr false sock (encSockreg addr false)

/-- ENC.SOCKREG.W (R127). -/
def execEncSockregW (addr : Half) (sock : BitVec 3) (s : State) : Host.Outcome State Fault Refusal :=
  encPort s true addr true sock (encSockreg addr true)

/-- The transmit-buffer rows (R128) share this: the row's tier must be the block's. -/
def encTxRow (t : Tier) (rw : Bool) (addr : Half) (sock : BitVec 3) (s : State) : Host.Outcome State Fault Refusal :=
  encPort s (s.cfg.tier == t) addr rw sock (encTxbuf t addr rw)

/-- The receive-buffer rows (R129) share this. -/
def encRxRow (t : Tier) (rw : Bool) (addr : Half) (sock : BitVec 3) (s : State) : Host.Outcome State Fault Refusal :=
  encPort s (s.cfg.tier == t) addr rw sock (encRxbuf t addr rw)

/-- ENC.TXBUF.R.2K (R128). -/
def execEncTxbufR2K (addr : Half) (sock : BitVec 3) (s : State) : Host.Outcome State Fault Refusal :=
  encTxRow .k2 false addr sock s

/-- ENC.TXBUF.W.2K (R128). -/
def execEncTxbufW2K (addr : Half) (sock : BitVec 3) (s : State) : Host.Outcome State Fault Refusal :=
  encTxRow .k2 true addr sock s

/-- ENC.TXBUF.R.4K (R128). -/
def execEncTxbufR4K (addr : Half) (sock : BitVec 3) (s : State) : Host.Outcome State Fault Refusal :=
  encTxRow .k4 false addr sock s

/-- ENC.TXBUF.W.4K (R128). -/
def execEncTxbufW4K (addr : Half) (sock : BitVec 3) (s : State) : Host.Outcome State Fault Refusal :=
  encTxRow .k4 true addr sock s

/-- ENC.TXBUF.R.8K (R128). -/
def execEncTxbufR8K (addr : Half) (sock : BitVec 3) (s : State) : Host.Outcome State Fault Refusal :=
  encTxRow .k8 false addr sock s

/-- ENC.TXBUF.W.8K (R128). -/
def execEncTxbufW8K (addr : Half) (sock : BitVec 3) (s : State) : Host.Outcome State Fault Refusal :=
  encTxRow .k8 true addr sock s

/-- ENC.TXBUF.R.16K (R128). -/
def execEncTxbufR16K (addr : Half) (sock : BitVec 3) (s : State) : Host.Outcome State Fault Refusal :=
  encTxRow .k16 false addr sock s

/-- ENC.TXBUF.W.16K (R128). -/
def execEncTxbufW16K (addr : Half) (sock : BitVec 3) (s : State) : Host.Outcome State Fault Refusal :=
  encTxRow .k16 true addr sock s

/-- ENC.RXBUF.R.2K (R129). -/
def execEncRxbufR2K (addr : Half) (sock : BitVec 3) (s : State) : Host.Outcome State Fault Refusal :=
  encRxRow .k2 false addr sock s

/-- ENC.RXBUF.W.2K (R129). -/
def execEncRxbufW2K (addr : Half) (sock : BitVec 3) (s : State) : Host.Outcome State Fault Refusal :=
  encRxRow .k2 true addr sock s

/-- ENC.RXBUF.R.4K (R129). -/
def execEncRxbufR4K (addr : Half) (sock : BitVec 3) (s : State) : Host.Outcome State Fault Refusal :=
  encRxRow .k4 false addr sock s

/-- ENC.RXBUF.W.4K (R129). -/
def execEncRxbufW4K (addr : Half) (sock : BitVec 3) (s : State) : Host.Outcome State Fault Refusal :=
  encRxRow .k4 true addr sock s

/-- ENC.RXBUF.R.8K (R129). -/
def execEncRxbufR8K (addr : Half) (sock : BitVec 3) (s : State) : Host.Outcome State Fault Refusal :=
  encRxRow .k8 false addr sock s

/-- ENC.RXBUF.W.8K (R129). -/
def execEncRxbufW8K (addr : Half) (sock : BitVec 3) (s : State) : Host.Outcome State Fault Refusal :=
  encRxRow .k8 true addr sock s

/-- ENC.RXBUF.R.16K (R129). -/
def execEncRxbufR16K (addr : Half) (sock : BitVec 3) (s : State) : Host.Outcome State Fault Refusal :=
  encRxRow .k16 false addr sock s

/-- ENC.RXBUF.W.16K (R129). -/
def execEncRxbufW16K (addr : Half) (sock : BitVec 3) (s : State) : Host.Outcome State Fault Refusal :=
  encRxRow .k16 true addr sock s

end Sys2Proof.Machine
end

