-- ==== Sys2Proof/Machine/Reserved.lean ====
section
/-! DEFINITION. The six operation codes that name no operation (spec 30_encoding.md R92: "A model *refuses* them"). -/

namespace Sys2Proof.Machine

/-- RESERVED.0x0 (R92). -/
def execReserved0 (_ : State) : Host.Outcome State Fault Refusal := .refused (.reservedOpcode 0x0)

/-- RESERVED.0x7 (R92). -/
def execReserved7 (_ : State) : Host.Outcome State Fault Refusal := .refused (.reservedOpcode 0x7)

/-- RESERVED.0xC (R92). -/
def execReservedC (_ : State) : Host.Outcome State Fault Refusal := .refused (.reservedOpcode 0xC)

/-- RESERVED.0xD (R92). -/
def execReservedD (_ : State) : Host.Outcome State Fault Refusal := .refused (.reservedOpcode 0xD)

/-- RESERVED.0xE (R92). -/
def execReservedE (_ : State) : Host.Outcome State Fault Refusal := .refused (.reservedOpcode 0xE)

/-- RESERVED.0xF (R92). -/
def execReservedF (_ : State) : Host.Outcome State Fault Refusal := .refused (.reservedOpcode 0xF)

end Sys2Proof.Machine
end

