-- ==== Sys2Proof/Machine/Dispatch.lean ====
section
/-! DEFINITION. One arm for each constructor of `Instr`. -/

namespace Sys2Proof.Machine

def exec (i : Instr) (s : State) : Host.Outcome State Fault Refusal :=
  match i with
  | .encCommonR addr sock => Sys2Proof.Machine.execEncCommonR addr sock s
  | .encCommonW addr sock => Sys2Proof.Machine.execEncCommonW addr sock s
  | .encSockregR addr sock => Sys2Proof.Machine.execEncSockregR addr sock s
  | .encSockregW addr sock => Sys2Proof.Machine.execEncSockregW addr sock s
  | .encTxbufR2K addr sock => Sys2Proof.Machine.execEncTxbufR2K addr sock s
  | .encTxbufW2K addr sock => Sys2Proof.Machine.execEncTxbufW2K addr sock s
  | .encTxbufR4K addr sock => Sys2Proof.Machine.execEncTxbufR4K addr sock s
  | .encTxbufW4K addr sock => Sys2Proof.Machine.execEncTxbufW4K addr sock s
  | .encTxbufR8K addr sock => Sys2Proof.Machine.execEncTxbufR8K addr sock s
  | .encTxbufW8K addr sock => Sys2Proof.Machine.execEncTxbufW8K addr sock s
  | .encTxbufR16K addr sock => Sys2Proof.Machine.execEncTxbufR16K addr sock s
  | .encTxbufW16K addr sock => Sys2Proof.Machine.execEncTxbufW16K addr sock s
  | .encRxbufR2K addr sock => Sys2Proof.Machine.execEncRxbufR2K addr sock s
  | .encRxbufW2K addr sock => Sys2Proof.Machine.execEncRxbufW2K addr sock s
  | .encRxbufR4K addr sock => Sys2Proof.Machine.execEncRxbufR4K addr sock s
  | .encRxbufW4K addr sock => Sys2Proof.Machine.execEncRxbufW4K addr sock s
  | .encRxbufR8K addr sock => Sys2Proof.Machine.execEncRxbufR8K addr sock s
  | .encRxbufW8K addr sock => Sys2Proof.Machine.execEncRxbufW8K addr sock s
  | .encRxbufR16K addr sock => Sys2Proof.Machine.execEncRxbufR16K addr sock s
  | .encRxbufW16K addr sock => Sys2Proof.Machine.execEncRxbufW16K addr sock s
  | .wr addr len wbuf => Sys2Proof.Machine.execWr addr len wbuf s
  | .rd addr len => Sys2Proof.Machine.execRd addr len s
  | .wr8 addr v => Sys2Proof.Machine.execWr8 addr v s
  | .rd8 addr => Sys2Proof.Machine.execRd8 addr s
  | .wr16 addr v => Sys2Proof.Machine.execWr16 addr v s
  | .rd16 addr => Sys2Proof.Machine.execRd16 addr s
  | .init => Sys2Proof.Machine.execInit s
  | .link => Sys2Proof.Machine.execLink s
  | .exec sock c => Sys2Proof.Machine.execExec sock c s
  | .verify => Sys2Proof.Machine.execVerify s
  | .reserved0 => Sys2Proof.Machine.execReserved0 s
  | .reserved7 => Sys2Proof.Machine.execReserved7 s
  | .reservedC => Sys2Proof.Machine.execReservedC s
  | .reservedD => Sys2Proof.Machine.execReservedD s
  | .reservedE => Sys2Proof.Machine.execReservedE s
  | .reservedF => Sys2Proof.Machine.execReservedF s
  | .csCfg => Sys2Proof.Machine.execCsCfg s
  | .csLow => Sys2Proof.Machine.execCsLow s
  | .csHigh => Sys2Proof.Machine.execCsHigh s
  | .softReset => Sys2Proof.Machine.execSoftReset s
  | .partition => Sys2Proof.Machine.execPartition s

end Sys2Proof.Machine
end

