-- ==== Sys2Proof/Machine/Port.lean ====
section
/-! DEFINITION. Which of its ports the block serves next (spec 10_state.md R29, R32; 41_encoder.md R131;
70_reset_and_hazards.md R279, R285). -/

namespace Sys2Proof.Machine

/-- The word at a port is taken off it, decoded and run; a micro-operation's label has no port (R91). -/
def serve (s : State) (w : PortWord) (rest : List PortWord) : Host.Outcome State Fault Refusal :=
  if w.format = .uop then .refused .microOperationAtPort
  else
    match decode s.cfg w with
    | .ok i => exec i { s with offers := rest }
    | .error e => .refused (.rejected e)

/-- One step: an encoder request is served at any time (R131); a host operation only when none runs, and waits
otherwise while the running one goes on (R29); a block with nothing to do waits (R37: "after reset the block waits for
the first operation"). -/
def serveNext (s : State) : Host.Outcome State Fault Refusal :=
  if !s.cfg.legal then .refused .illegalConfiguration
  else
    match s.offers with
    | [] => if s.busy then resume s else .next s
    | w :: rest => if s.busy && w.format != .frame then resume s else serve s w rest

end Sys2Proof.Machine
end

