-- ==== Sys2Proof/Machine/Step.lean ====
section
/-! DEFINITION. The step of the block: one whole operation of the host, one encoder request, or one further poll of a
running EXEC (log entry 1). -/

namespace Sys2Proof.Machine

/-- One step of the block. -/
def step (s : State) : Host.Outcome State Fault Refusal := serveNext s

/-- `s` with the table word `w` of `nbits` bits put at the block's ports ahead of everything else, with no operation
running, so that the next step serves it (log entry 13). A frame that the configured tier's block cannot send is put to a
block of the tier that can. A word the table has no format for leaves the ports as they are. -/
def State.withFetchWord (s : State) (nbits w : Nat) : State :=
  match tableWord nbits w with
  | none => s
  | some p => { s with cfg := tableConfig s.cfg p, offers := p :: s.offers, busy := false, phase := .idle }

end Sys2Proof.Machine
end

