-- ==== Sys2Proof/Machine/Pseudo.lean ====
section
/-! DEFINITION. The pseudo-operations of R94 and the textual form of R93: names of the spec for its test programs, each an
operation of Sys2Proof/Syntax.lean (30_encoding.md R93, R94). No step uses them. -/

namespace Sys2Proof

/-- `WRSN8 s, off, v`. -/
def Config.wrSn8 (c : Config) (s : BitVec 3) (off v : Byte) : Instr := .wr8 (c.snAddr s off) v

/-- `RDSN8 s, off`. -/
def Config.rdSn8 (c : Config) (s : BitVec 3) (off : Byte) : Instr := .rd8 (c.snAddr s off)

/-- `WRSN16 s, off, v`. -/
def Config.wrSn16 (c : Config) (s : BitVec 3) (off : Byte) (v : Half) : Instr := .wr16 (c.snAddr s off) v

/-- `RDSN16 s, off`. -/
def Config.rdSn16 (c : Config) (s : BitVec 3) (off : Byte) : Instr := .rd16 (c.snAddr s off)

/-- `WRMR v`. -/
def Config.wrMr (c : Config) (v : Byte) : Instr := .wr8 c.mrAddr v

/-- `RDMR`. -/
def Config.rdMr (c : Config) : Instr := .rd8 c.mrAddr

/-- `WRTX s, off, [b...]`, for a socket of the tier and `off < SSIZE` (R94, R137). -/
def Config.wrTx (c : Config) (s : BitVec 3) (off : Half) (b : List Byte) : Option Instr :=
  if s.toNat < c.tier.sockets ∧ off < c.tier.ssize then
    some (.wr (txBase c.tier s + off) (BitVec.ofNat 16 b.length) b)
  else none

/-- `RDRX s, off, len`, for a socket of the tier and `off < SSIZE` (R94, R137). -/
def Config.rdRx (c : Config) (s : BitVec 3) (off len : Half) : Option Instr :=
  if s.toNat < c.tier.sockets ∧ off < c.tier.ssize then some (.rd (rxBase c.tier s + off) len) else none

/-- One hexadecimal digit. -/
def hexDigit (n : Nat) : Char := (['0', '1', '2', '3', '4', '5', '6', '7', '8', '9', 'A', 'B', 'C', 'D', 'E', 'F'][n]?).getD '0'

/-- `n` as `k` hexadecimal digits, most significant first. -/
def hexDigits : Nat → Nat → List Char
  | 0, _ => []
  | k + 1, n => hexDigits k (n / 16) ++ [hexDigit (n % 16)]

/-- A number in the form of R93, `0x` and `k` digits. -/
def hexText (k n : Nat) : List Char := '0' :: 'x' :: hexDigits k n

/-- A byte list in the form of R93: square brackets, a space between bytes. -/
def bytesText (b : List Byte) : List Char :=
  '[' :: (List.intercalate [' '] (b.map fun x => hexText 2 x.toNat)) ++ [']']

/-- An operation in the form of R93, with a space after its name and a comma and a space between operands; addresses and bytes
in hexadecimal, lengths and sockets in decimal, as the programs of 95_test_vectors.md write them. The reserved
codes and the micro-operations have no textual form. -/
def Instr.text : Instr → Option (List Char)
  | .encCommonR addr _ | .encSockregR addr _
  | .encTxbufR2K addr _ | .encTxbufR4K addr _ | .encTxbufR8K addr _ | .encTxbufR16K addr _
  | .encRxbufR2K addr _ | .encRxbufR4K addr _ | .encRxbufR8K addr _ | .encRxbufR16K addr _ =>
    some ("ENC.R ".toList ++ hexText 4 addr.toNat)
  | .encCommonW addr _ | .encSockregW addr _
  | .encTxbufW2K addr _ | .encTxbufW4K addr _ | .encTxbufW8K addr _ | .encTxbufW16K addr _
  | .encRxbufW2K addr _ | .encRxbufW4K addr _ | .encRxbufW8K addr _ | .encRxbufW16K addr _ =>
    some ("ENC.W ".toList ++ hexText 4 addr.toNat)
  | .wr addr _ wbuf => some ("WR ".toList ++ hexText 4 addr.toNat ++ ", ".toList ++ bytesText wbuf)
  | .rd addr len => some ("RD ".toList ++ hexText 4 addr.toNat ++ ", ".toList ++ Nat.toDigits 10 len.toNat)
  | .wr8 addr v => some ("WR8 ".toList ++ hexText 4 addr.toNat ++ ", ".toList ++ hexText 2 v.toNat)
  | .rd8 addr => some ("RD8 ".toList ++ hexText 4 addr.toNat)
  | .wr16 addr v => some ("WR16 ".toList ++ hexText 4 addr.toNat ++ ", ".toList ++ hexText 4 v.toNat)
  | .rd16 addr => some ("RD16 ".toList ++ hexText 4 addr.toNat)
  | .init => some "INIT".toList
  | .verify => some "VERIFY".toList
  | .link => some "LINK".toList
  | .exec sock c => some ("EXEC ".toList ++ Nat.toDigits 10 sock.toNat ++ ", ".toList ++ hexText 2 c.toNat)
  | .reserved0 | .reserved7 | .reservedC | .reservedD | .reservedE | .reservedF => none
  | .csCfg | .csLow | .csHigh | .softReset | .partition => none

end Sys2Proof
end

