-- ==== Sys2Proof/Machine/Facade.lean ====
section
/-! DEFINITION. The Network Configuration Facade as far as it is a function: surrounding software, not part of the hardware
(spec 44_facade.md R220 to R228, 00_scope.md R5). It says which host operations the facade issues; no step uses it, and
the order in which it issues them is fixed by no rule (R228, D33). -/

namespace Sys2Proof

/-- The facade's register addresses (R228), with their defaults (GK12, D33). -/
structure FacadeParams where
  gar : Half := 0x0001
  subr : Half := 0x0005
  shar : Half := 0x0009
  sipr : Half := 0x000F
  rtr : Half := 0x0019
  rcr : Half := 0x001B
  deriving DecidableEq, Repr

/-- An IP-shaped value `a.b.c.d`. -/
structure Ipv4 where
  a : Byte
  b : Byte
  c : Byte
  d : Byte
  deriving DecidableEq, Repr

/-- The four bytes of an IP-shaped value, in the order written. -/
def Ipv4.bytes (x : Ipv4) : List Byte := [x.a, x.b, x.c, x.d]

/-- What the DHCP collaborator's `checkLease` answers (R221). -/
inductive Lease where
  | none
  | renewOk
  | rebindOk
  | error
  deriving DecidableEq, Repr

/-- The raw retransmission time of R225: `min(v, 6553) × 10`, 16 bits wide. No rule gives the width of `v`: a natural number
takes in every width (log entry 21). -/
def rtrRaw (v : Nat) : Half := BitVec.ofNat 16 (min v 6553 * 10)

/-- `setRetransmissionTimeout(v)` as a host operation (R225), for a `v` of any width (log entry 21). -/
def FacadeParams.setRetransmissionTimeout (p : FacadeParams) (v : Nat) : Instr := .wr16 p.rtr (rtrRaw v)

/-- The retransmission count as a host operation (R225: written unchanged). R225 does not give its width: one byte is
presumed, as R228 has it from general knowledge (log entry 21). -/
def FacadeParams.setRetransmissionCount (p : FacadeParams) (n : Byte) : Instr := .wr8 p.rcr n

/-- The convention of R223 for an unset DNS server or gateway: the address's own subnet with host octet 1. -/
def Ipv4.conventional (ip : Ipv4) : Ipv4 := { ip with d := 1 }

/-- The addressing that static bring-up configures (R223): DNS, gateway, subnet. -/
def staticAddressing (ip : Ipv4) (dns gateway subnet : Option Ipv4) : Ipv4 × Ipv4 × Ipv4 :=
  (dns.getD ip.conventional, gateway.getD ip.conventional, subnet.getD ⟨255, 255, 255, 0⟩)

/-- Writing an IP-shaped value to a register: 4 bytes (R226, R228). -/
def writeIp (reg : Half) (x : Ipv4) : Instr := .wr reg 4 x.bytes

/-- Reading an IP-shaped register: 4 bytes (R226). -/
def readIp (reg : Half) : Instr := .rd reg 4

/-- Writing the hardware address: 6 bytes (R226, R228). -/
def FacadeParams.writeMac (p : FacadeParams) (mac : List Byte) : Instr := .wr p.shar 6 mac

/-- Reading the hardware address: 6 bytes (R226). -/
def FacadeParams.readMac (p : FacadeParams) : Instr := .rd p.shar 6

/-- `maintain()` writes the negotiated values again exactly on these answers (R224). -/
def Lease.rewrites : Lease → Bool
  | .renewOk => true
  | .rebindOk => true
  | .none => false
  | .error => false

end Sys2Proof
end

