-- ==== Sys2Proof/Safety.lean ====
section
/-! DEFINITION. What the claims are stated in: the transactions the spec writes out as traces, what a trace shows at the
pins (the chip-select discipline of 40_chip_select.md R114, R115 and the bus lock of 43_chip_controller.md R190), the bytes
sent and received, and the invariant of the block between steps (10_state.md R38). -/

namespace Sys2Proof.Machine

/-- The environment's answers from place `i` on: the `n` bytes received there (R62). -/
def State.received (s : State) (i n : Nat) : List Byte := (List.range n).map fun k => s.oracle (i + k)

/-- The trace of one write transaction as R153 writes it out: `hdr` is its frame, the first byte is received at place `i`. -/
def writeTrace (s : State) (hdr : Frame) (payload : List Byte) (i : Nat) : List Event :=
  if payload.length ≤ 5 then
    [.csLow, .xfer (hdr.bytes ++ payload) (s.received i (3 + payload.length)), .csHigh]
  else
    [.csLow, .xfer hdr.bytes (s.received i 3), .xfer payload (s.received (i + 3) payload.length), .csHigh]

/-- The trace of one read transaction of `n` bytes as R156 and R163 write it out. -/
def readTrace (s : State) (hdr : Frame) (n i : Nat) : List Event :=
  if n = 0 then [.csLow, .xfer hdr.bytes (s.received i 3), .csHigh]
  else [.csLow, .xfer hdr.bytes (s.received i 3), .xfer (List.replicate n 0x00) (s.received (i + 3) n), .csHigh]

/-- A one-byte write of the controller to `addr` (R159): 4 bytes on the bus. -/
def write8Trace (s : State) (addr : Half) (v : Byte) (i : Nat) : List Event :=
  writeTrace s (Sys2Proof.enc s.cfg.tier addr true) [v] i

/-- A one-byte read of the controller from `addr` (R160): 4 bytes on the bus, the last of them the answer. -/
def read8Trace (s : State) (addr : Half) (i : Nat) : List Event :=
  readTrace s (Sys2Proof.enc s.cfg.tier addr false) 1 i

/-- What the `k`-th poll (from 0) of a soft reset reads, whose reset command is received from place `i` on (R183). -/
def State.pollAnswer (s : State) (i k : Nat) : Byte := s.oracle (i + 4 + 4 * k + 3)

/-- The first `k` polls of a soft reset, each with the delay that follows a non-zero answer (R183). -/
def failedPolls (s : State) (i k : Nat) : List Event :=
  (List.range k).flatMap fun j => read8Trace s s.cfg.mrAddr (i + 4 + 4 * j) ++ [.delay 1]

/-- The trace of a soft reset that succeeds at its `k`-th read, counted from 0: 1 write, `k + 1` reads, `k` delays (R183). -/
def softResetTrace (s : State) (i k : Nat) : List Event :=
  write8Trace s s.cfg.mrAddr s.cfg.rstCmd i ++ failedPolls s i k ++ read8Trace s s.cfg.mrAddr (i + 4 + 4 * k)

/-- The trace of a soft reset that times out: 1 write, 20 reads and 20 delays (R183). -/
def timeoutTrace (s : State) (i : Nat) : List Event :=
  write8Trace s s.cfg.mrAddr s.cfg.rstCmd i ++ failedPolls s i 20

/-- The trace of one sentinel write and its read-back (R184). -/
def sentinelTrace (s : State) (pattern : Byte) (i : Nat) : List Event :=
  write8Trace s s.cfg.mrAddr pattern i ++ read8Trace s s.cfg.mrAddr (i + 4)

/-- The bytes of the size writes of PARTITION in large-buffer mode, as R185 lists them: sockets 0 to 7 ascending, receive
before transmit, `SSIZE >> 10` below `N` and 0 from `N` on. -/
def partitionTrace (s : State) (i : Nat) : List Event :=
  (List.range 8).flatMap fun k =>
    write8Trace s (s.cfg.snAddr (BitVec.ofNat 3 k) s.cfg.snRxSizeOff)
        (if k < s.cfg.maxSockNum then (s.cfg.tier.ssize >>> 10).setWidth 8 else 0x00) (i + 8 * k)
      ++ write8Trace s (s.cfg.snAddr (BitVec.ofNat 3 k) s.cfg.snTxSizeOff)
        (if k < s.cfg.maxSockNum then (s.cfg.tier.ssize >>> 10).setWidth 8 else 0x00) (i + 8 * k + 4)

/-- The soft reset that starts at place `i` times out: twenty non-zero reads (R183). -/
def State.softResetFails (s : State) (i : Nat) : Prop := ∀ k < 20, s.pollAnswer i k ≠ 0x00

/-- The soft reset that starts at place `i` succeeds at its `k`-th read, counted from 0 (R183). -/
def State.softResetClears (s : State) (i k : Nat) : Prop :=
  k < 20 ∧ (∀ j < k, s.pollAnswer i j ≠ 0x00) ∧ s.pollAnswer i k = 0x00

/-- VERIFY from place `i` on passes all its checks, its soft reset clearing at the `k`-th read (R183, R184). -/
def State.verifies (s : State) (i k : Nat) : Prop :=
  s.softResetClears i k
    ∧ s.oracle (i + 4 * k + 15) = s.cfg.sentinel1
    ∧ s.oracle (i + 4 * k + 23) = s.cfg.sentinel2
    ∧ s.oracle (i + 4 * k + 31) = s.cfg.sentinel3
    ∧ s.oracle (i + 4 * k + 35) = s.cfg.versionConst

/-- The first `n` sentinel writes and read-backs of VERIFY, from place `i` on (R184). -/
def sentinelTraces (s : State) (n i : Nat) : List Event :=
  (List.range n).flatMap fun j =>
    sentinelTrace s ([s.cfg.sentinel1, s.cfg.sentinel2, s.cfg.sentinel3].getD j 0x00) (i + 8 * j)

/-- The trace of VERIFY from place `i` on when it gets as far as the version check, whether that passes or not (R184). -/
def fullVerifyTrace (s : State) (i k : Nat) : List Event :=
  softResetTrace s i k ++ sentinelTraces s 3 (i + 4 * k + 8) ++ read8Trace s s.cfg.versionAddr (i + 4 * k + 32)

/-- VERIFY from place `i` on fails with cause `c`, after events `ev` that receive `n` bytes, with `p` in `poll_count`: the five
rows of R241, each after the earlier checks have passed (R244, R246). -/
def State.failsAs (s : State) (i : Nat) (c : Cause) (ev : List Event) (n : Nat) (p : BitVec 5) : Prop :=
  match c with
  | .resetTimeout => s.softResetFails i ∧ ev = timeoutTrace s i ∧ n = 84 ∧ p = 20
  | .sentinel1 => ∃ k, s.softResetClears i k
      ∧ s.oracle (i + 4 * k + 15) ≠ s.cfg.sentinel1
      ∧ ev = softResetTrace s i k ++ sentinelTraces s 1 (i + 4 * k + 8)
      ∧ n = 4 * k + 16 ∧ p = BitVec.ofNat 5 k
  | .sentinel2 => ∃ k, s.softResetClears i k
      ∧ s.oracle (i + 4 * k + 15) = s.cfg.sentinel1 ∧ s.oracle (i + 4 * k + 23) ≠ s.cfg.sentinel2
      ∧ ev = softResetTrace s i k ++ sentinelTraces s 2 (i + 4 * k + 8)
      ∧ n = 4 * k + 24 ∧ p = BitVec.ofNat 5 k
  | .sentinel3 => ∃ k, s.softResetClears i k
      ∧ s.oracle (i + 4 * k + 15) = s.cfg.sentinel1 ∧ s.oracle (i + 4 * k + 23) = s.cfg.sentinel2
      ∧ s.oracle (i + 4 * k + 31) ≠ s.cfg.sentinel3
      ∧ ev = softResetTrace s i k ++ sentinelTraces s 3 (i + 4 * k + 8)
      ∧ n = 4 * k + 32 ∧ p = BitVec.ofNat 5 k
  | .version => ∃ k, s.softResetClears i k
      ∧ s.oracle (i + 4 * k + 15) = s.cfg.sentinel1 ∧ s.oracle (i + 4 * k + 23) = s.cfg.sentinel2
      ∧ s.oracle (i + 4 * k + 31) = s.cfg.sentinel3 ∧ s.oracle (i + 4 * k + 35) ≠ s.cfg.versionConst
      ∧ ev = fullVerifyTrace s i k
      ∧ n = 4 * k + 36 ∧ p = BitVec.ofNat 5 k

/-- `res_ok` and the ghost cause of `t` are the verdict of the identity verification whose first byte is received in `s`:
success when it passes every check, else the cause of the check it fails (R184, R241). -/
def State.verdictIn (s t : State) : Prop :=
  (t.res.ok = true ∧ t.cause = none ∧ ∃ k, s.verifies s.drawn k)
    ∨ (t.res.ok = false ∧ ∃ (c : Cause) (ev : List Event) (n : Nat) (p : BitVec 5),
        t.cause = some c ∧ s.failsAs s.drawn c ev n p)

/-- What the chip sees of chip select: the line not driven, just made an output, high, or low with `bursts` bursts so far
in the open transaction. -/
inductive CsView where
  | undriven
  | turning
  | high
  | low (bursts : Nat)
  deriving DecidableEq, Repr

/-- What a trace shows at the pins: chip select and the bus lock. -/
structure PortView where
  cs : CsView
  busHeld : Bool
  deriving DecidableEq, Repr

/-- How one event moves the view; `none` is a breach of R114 (strict alternation of `CS_LOW` and `CS_HIGH`), R115 (a
transaction is one or two bursts and nothing else, the first with at least the three frame bytes; no burst outside one), R190
(`BUS_BEGIN` and `BUS_END` paired, outside transactions), R111 (`CS_HIGH` follows `CS_DIR_OUT`) or R12 (`|out| ≥ 1`,
`|in| = |out|`). -/
def PortView.next (v : PortView) : Event → Option PortView
  | .delay _ =>
    match v.cs with
    | .undriven => some v
    | .high => some v
    | .turning => none
    | .low _ => none
  | .csDirOut =>
    match v.cs with
    | .undriven => some { v with cs := .turning }
    | .high => some { v with cs := .turning }
    | .turning => none
    | .low _ => none
  | .csHigh =>
    match v.cs with
    | .turning => some { v with cs := .high }
    | .low (_ + 1) => some { v with cs := .high }
    | .low 0 => none
    | .undriven => none
    | .high => none
  | .csLow =>
    match v.cs with
    | .high => some { v with cs := .low 0 }
    | .undriven => none
    | .turning => none
    | .low _ => none
  | .busBegin => if v.cs = .high ∧ v.busHeld = false then some { v with busHeld := true } else none
  | .busEnd => if v.cs = .high ∧ v.busHeld = true then some { v with busHeld := false } else none
  | .xfer out rx =>
    match v.cs with
    | .low 0 => if 3 ≤ out.length ∧ rx.length = out.length then some { v with cs := .low 1 } else none
    | .low 1 => if 1 ≤ out.length ∧ rx.length = out.length then some { v with cs := .low 2 } else none
    | .low (_ + 2) => none
    | .undriven => none
    | .turning => none
    | .high => none

/-- What a whole trace shows from block reset on; `none` if it breaks the discipline anywhere. -/
def portView (t : List Event) : Option PortView := t.foldlM PortView.next ⟨.undriven, false⟩

/-- The bytes the block sends in a trace, in order (R87: "The byte stream the chip sees"). -/
def sentBytes (t : List Event) : List Byte :=
  t.flatMap fun
    | .xfer out _ => out
    | _ => []

/-- The bytes the block receives in a trace, in order. -/
def receivedBytes (t : List Event) : List Byte :=
  t.flatMap fun
    | .xfer _ rx => rx
    | _ => []

/-- A trace without what was received: what the block itself does at its ports. -/
def ownEvents (t : List Event) : List Event :=
  t.map fun
    | .xfer out _ => .xfer out []
    | e => e

/-- The invariant between steps. R38 (a) to (c) with the pins as the trace shows them; between the steps of a run the block is
busy only in an EXEC's poll loop, with the chip deselected (R38's last sentence, R192). -/
def BlockInv (s : State) : Prop :=
  s.cfg.legal = true
    ∧ s.busOpen = false
    ∧ (s.csOe = true → s.csN = true)
    ∧ (s.chipState = .uninitialized ∨ s.chipState = .operational)
    ∧ (s.chipState = .operational → s.csOe = true)
    ∧ (s.busy = false → s.phase = .idle)
    ∧ (s.busy = true → s.latch.op = 0xA ∧ s.phase = .exPoll ∧ s.csOe = true)
    ∧ portView s.trace = some ⟨if s.csOe then .high else .undriven, false⟩

/-- Every byte received so far stands in the trace, in the order it was drawn from the environment (R62, R65: nothing is
dropped, repeated or reordered). -/
def Faithful (s : State) : Prop := receivedBytes s.trace = s.received 0 s.drawn

/-- An EXEC is in its poll loop (R187, R192). -/
def State.spinning (s : State) : Prop :=
  s.cfg.legal = true ∧ s.busy = true ∧ s.latch.op = 0xA ∧ s.phase = .exPoll ∧ s.csN = true

/-- What stands at the ports is `reqs`, all of it requests that the encoder takes, and behind them `rest`, which does not begin
with one: a host operation, which waits (R29, R131), or nothing. -/
def State.portsHold (s : State) (reqs rest : List PortWord) : Prop :=
  s.offers = reqs ++ rest
    ∧ (∀ w ∈ reqs, w.format = .frame ∧ ∃ i, decode s.cfg w = .ok i)
    ∧ ∀ w, rest.head? = some w → w.format ≠ .frame

/-- The poll transactions of a spinning EXEC from place `i` on, `n` of them (R187). -/
def pollTraces (s : State) (i n : Nat) : List Event :=
  (List.range n).flatMap fun j => read8Trace s (s.cfg.snAddr s.latch.sock s.cfg.snCrOff) (i + 4 * j)

/-- A block that accepts a host operation: legal configuration, no operation running (R29). -/
def State.idle (s : State) : Prop := s.cfg.legal = true ∧ s.busy = false

/-- A block that accepts an operation on the bus: idle, and the chip-select pin configured (R167). -/
def State.ready (s : State) : Prop := s.cfg.legal = true ∧ s.busy = false ∧ s.csOe = true

end Sys2Proof.Machine
end

