-- ==== Sys2Proof/Certificates/Slice0/Obligations.lean ====
section
/-! DEFINITION. The statements about the block, for the provers. Addresses, bytes and events are written out as the rules of
the spec write them; `s.received i n` are the `n` bytes the environment answers from place `i` of the run on, which no
statement constrains but by its own hypotheses (spec 20_memory.md R62). -/

open Sys2Proof Sys2Proof.Machine

/-! ### The address space and the control frame -/

/-- R51 and R56: the four regions are the four half-open ranges; the document's six boundary examples and the two ends. -/
def Obligations.RegionsAreHalfOpenRanges : Prop :=
  (∀ a : Half,
    (region a = .common ↔ a.toNat < 0x0100)
      ∧ (region a = .sockReg ↔ 0x0100 ≤ a.toNat ∧ a.toNat < 0x8000)
      ∧ (region a = .txBuf ↔ 0x8000 ≤ a.toNat ∧ a.toNat < 0xC000)
      ∧ (region a = .rxBuf ↔ 0xC000 ≤ a.toNat))
    ∧ region 0x0000 = .common ∧ region 0x00FF = .common
    ∧ region 0x0100 = .sockReg ∧ region 0x7FFF = .sockReg
    ∧ region 0x8000 = .txBuf ∧ region 0xBFFF = .txBuf
    ∧ region 0xC000 = .rxBuf ∧ region 0xFFFF = .rxBuf

/-- R84: the second frame byte is `addr[7:0]` in every region, tier and direction. R84 is marked as the spec's own inference
("[addr low byte]" with no alternative given). -/
def Obligations.SecondFrameByteIsAddressLow : Prop :=
  ∀ (t : Tier) (a : Half) (rw : Bool), (enc t a rw).h1 = a.extractLsb' 0 8

/-- R83: the first frame byte is zero in the register regions and `addr[15:8]` in the buffer regions, where it repeats the
region bits (D8). -/
def Obligations.FirstFrameByteByRegion : Prop :=
  ∀ (t : Tier) (a : Half) (rw : Bool),
    ((region a = .common ∨ region a = .sockReg) → (enc t a rw).h0 = 0x00)
      ∧ ((region a = .txBuf ∨ region a = .rxBuf) → (enc t a rw).h0 = a.extractLsb' 8 8)
      ∧ (region a = .txBuf → (enc t a rw).h0.extractLsb' 6 2 = 0b10)
      ∧ (region a = .rxBuf → (enc t a rw).h0.extractLsb' 6 2 = 0b11)

/-- R130: the shift and mask of each tier, and that in every tier they give the index of the `SSIZE`-byte partition that the
address falls in, in bits 7:5. The masks are the spec's derivation (D7); the shifts are the document's. -/
def Obligations.SocketBitsArePartitionIndex : Prop :=
  ∀ a : Half,
    sockBits .k2 a = ((a >>> 6) &&& 0x00E0).setWidth 8
      ∧ sockBits .k4 a = ((a >>> 7) &&& 0x0060).setWidth 8
      ∧ sockBits .k8 a = ((a >>> 8) &&& 0x0020).setWidth 8
      ∧ sockBits .k16 a = 0x00
      ∧ ∀ t : Tier, (sockBits t a).toNat = (a.toNat % 16384 / t.ssize.toNat) * 32

/-- R138: two socket-register addresses that agree in bits 10:0 give the same frame; the rule's four aliases. The spec derives
it from R127 and D8. -/
def Obligations.SocketRegisterAddressesAlias : Prop :=
  (∀ (t : Tier) (a b : Half) (rw : Bool), region a = .sockReg → region b = .sockReg →
      a.extractLsb' 0 11 = b.extractLsb' 0 11 → enc t a rw = enc t b rw)
    ∧ ∀ (t : Tier) (rw : Bool), ∀ a ∈ [0x0901, 0x1101, 0x1901, (0x7901 : Half)],
        enc t a rw = ⟨0x00, 0x01, if rw then 0x2C else 0x28⟩

/-- R136: a composed socket-register address carries the socket in bits 10:8 and the offset in bits 7:0, does not overflow, and
encodes as the rule says. The spec derives it from R127; the base is a parameter (D10), the stride one with a single legal value
(log entry 24). -/
def Obligations.SocketRegisterComposer : Prop :=
  ∀ (c : Config) (t : Tier) (s : BitVec 3) (off : Byte) (rw : Bool), c.legal = true →
    (c.snAddr s off).toNat = c.sockRegBase.toNat + s.toNat * 0x0100 + off.toNat
      ∧ (c.snAddr s off).extractLsb' 8 3 = s
      ∧ (c.snAddr s off).extractLsb' 0 8 = off
      ∧ enc t (c.snAddr s off) rw = ⟨0x00, off, (s.setWidth 8 <<< 5) ||| 0x08 ||| (if rw then 0x04 else 0x00)⟩

/-- R137: the first byte of a socket's buffers, and the frame of every address inside them; R88's offset inside the buffer, read
out of that frame, is the offset composed for. The spec derives it from R128 to
R130 (D7, D8). -/
def Obligations.BufferComposers : Prop :=
  ∀ (t : Tier) (s : BitVec 3) (off : Half) (rw : Bool), s.toNat < t.sockets → off.toNat < t.ssize.toNat →
    (txBase t s).toNat = 0x8000 + s.toNat * t.ssize.toNat
      ∧ (rxBase t s).toNat = 0xC000 + s.toNat * t.ssize.toNat
      ∧ enc t (txBase t s + off) rw
          = ⟨(txBase t s + off).extractLsb' 8 8, off.extractLsb' 0 8,
              (s.setWidth 8 <<< 5) ||| 0x10 ||| (if rw then 0x04 else 0x00)⟩
      ∧ enc t (rxBase t s + off) rw
          = ⟨(rxBase t s + off).extractLsb' 8 8, off.extractLsb' 0 8,
              (s.setWidth 8 <<< 5) ||| 0x18 ||| (if rw then 0x04 else 0x00)⟩
      ∧ (enc t (txBase t s + off) rw).bufferOffset t = off
      ∧ (enc t (rxBase t s + off) rw).bufferOffset t = off

/-- R139: for every legal socket, offset and direction, the `SOCK`, `REGION` and `RW` fields of the frame of a composed address
are the ones composed for, read by R88's `decode`. The spec derives it from R136 and R137. -/
def Obligations.ComposersAgreeWithEncoder : Prop :=
  (∀ (c : Config) (t : Tier) (s : BitVec 3) (off : Byte) (rw : Bool), c.legal = true →
      (enc t (c.snAddr s off) rw).fields.sock = s
        ∧ (enc t (c.snAddr s off) rw).fields.region = .sockReg
        ∧ (enc t (c.snAddr s off) rw).fields.rw = rw)
    ∧ ∀ (t : Tier) (s : BitVec 3) (off : Half) (rw : Bool), s.toNat < t.sockets → off.toNat < t.ssize.toNat →
      (enc t (txBase t s + off) rw).fields.sock = s
        ∧ (enc t (txBase t s + off) rw).fields.region = .txBuf
        ∧ (enc t (txBase t s + off) rw).fields.rw = rw
        ∧ (enc t (rxBase t s + off) rw).fields.sock = s
        ∧ (enc t (rxBase t s + off) rw).fields.region = .rxBuf
        ∧ (enc t (rxBase t s + off) rw).fields.rw = rw

/-- R95: the rows of the golden table, for every address of a socket: the control byte stands in the column of its socket. In the
socket-register region that is every address, its socket being `addr[10:8]` (R53), the composed ones among them; in the buffers
it is every address of every socket's buffer. The
spec derives the table from R82, R85 and R86 (D6, D7). -/
def Obligations.GoldenControlBytes : Prop :=
  (∀ (t : Tier) (a : Half), region a = .common → (enc t a false).h2 = 0x00 ∧ (enc t a true).h2 = 0x04)
    ∧ (∀ (t : Tier) (a : Half), region a = .sockReg →
        [0x08, 0x28, 0x48, 0x68, 0x88, 0xA8, 0xC8, 0xE8][(a.extractLsb' 8 3).toNat]? = some (enc t a false).h2
          ∧ [0x0C, 0x2C, 0x4C, 0x6C, 0x8C, 0xAC, 0xCC, 0xEC][(a.extractLsb' 8 3).toNat]? = some (enc t a true).h2)
    ∧ (∀ (c : Config) (t : Tier) (s : BitVec 3) (off : Byte), c.legal = true →
        [0x08, 0x28, 0x48, 0x68, 0x88, 0xA8, 0xC8, 0xE8][s.toNat]? = some (enc t (c.snAddr s off) false).h2
          ∧ [0x0C, 0x2C, 0x4C, 0x6C, 0x8C, 0xAC, 0xCC, 0xEC][s.toNat]? = some (enc t (c.snAddr s off) true).h2)
    ∧ ∀ (t : Tier) (s : BitVec 3) (off : Half), s.toNat < t.sockets → off.toNat < t.ssize.toNat →
        [0x10, 0x30, 0x50, 0x70, 0x90, 0xB0, 0xD0, 0xF0][s.toNat]? = some (enc t (txBase t s + off) false).h2
          ∧ [0x14, 0x34, 0x54, 0x74, 0x94, 0xB4, 0xD4, 0xF4][s.toNat]? = some (enc t (txBase t s + off) true).h2
          ∧ [0x18, 0x38, 0x58, 0x78, 0x98, 0xB8, 0xD8, 0xF8][s.toNat]? = some (enc t (rxBase t s + off) false).h2
          ∧ [0x1C, 0x3C, 0x5C, 0x7C, 0x9C, 0xBC, 0xDC, 0xFC][s.toNat]? = some (enc t (rxBase t s + off) true).h2

/-- R88: reading a frame the encoder made gives back the region, the direction and the socket bits of the address, `OM = 0`, and
the invariants R88 lists for every frame the block produces, with R88's offset inside the socket's buffer. The spec derives them
from R82 to R86 and R54. -/
def Obligations.FramesSatisfyTheirInvariants : Prop :=
  ∀ (t : Tier) (a : Half) (rw : Bool),
    (enc t a rw).fields.region = region a
      ∧ (enc t a rw).fields.rw = rw
      ∧ (enc t a rw).fields.om = 0
      ∧ (region a = .common → (enc t a rw).fields.sock = 0 ∧ (enc t a rw).h0 = 0x00)
      ∧ (region a = .sockReg → (enc t a rw).fields.sock = a.extractLsb' 8 3 ∧ (enc t a rw).h0 = 0x00)
      ∧ ((region a = .txBuf ∨ region a = .rxBuf) →
          (enc t a rw).fields.offset = a
            ∧ (enc t a rw).fields.sock.toNat = a.toNat % 16384 / t.ssize.toNat
            ∧ (enc t a rw).fields.sock.toNat < t.sockets
            ∧ ((enc t a rw).bufferOffset t).toNat = a.toNat % t.ssize.toNat)

/-- R88, R89, D37: the decoder accepts exactly the frames that the block's encoder can produce. The refusal is the spec's
decision D37. -/
def Obligations.FrameDecoderAcceptsExactlyProducedFrames : Prop :=
  ∀ (c : Config) (w : BitVec 24), c.legal = true →
    ((∃ i, decodeFrame c w = .ok i) ↔ ∃ (a : Half) (rw : Bool), (enc c.tier a rw).word = w)

/-- R81, R88: decoding the 24-bit frame of a canonical request gives that request's encoder row back, with its region, tier,
direction, address and socket. Which address a frame stands for is the model's choice (log entry 10). -/
def Obligations.FrameDecodingInvertsEncoder : Prop :=
  ∀ (c : Config) (a : Half) (rw : Bool), c.legal = true →
    (region a = .sockReg → a = c.snAddr (a.extractLsb' 8 3) (a.extractLsb' 0 8)) →
    decodeFrame c (enc c.tier a rw).word = .ok (encInstr c.tier rw a (enc c.tier a rw).fields.sock)

/-- Every well-formed instruction, encoded for its port and decoded there, is itself, with every operand. The words of the ports
are the model's (log entries 10, 11), the codes the spec's own labels (D2). -/
def Obligations.DecodeInvertsEncode : Prop :=
  ∀ (c : Config) (i : Instr), i.wf c = true → decode c (encode i) = .ok i

/-- What the decoder gives from a port is well-formed. What is well-formed is the model's choice (log entries 10, 20). -/
def Obligations.DecodedInstructionsAreWellFormed : Prop :=
  ∀ (c : Config) (w : PortWord) (i : Instr), c.legal = true → decode c w = .ok i → i.wf c = true

/-- Words written out from 30_encoding.md R81, R90, R91 decode to what they stand for. The codes and labels are the spec's own
(D2), the canonical addresses and the configuration the model's (log entries 3, 10). -/
def Obligations.WrittenOutWordsDecode : Prop :=
  decode .default (.frame 0x002E00) = .ok (.encCommonR 0x002E 0)
    ∧ decode .default (.frame 0x00016C) = .ok (.encSockregW 0x1301 3)
    ∧ decode .default (.frame 0x880034) = .ok (.encTxbufW2K 0x8800 1)
    ∧ decode .default (.frame 0xF800F8) = .ok (.encRxbufR2K 0xF800 7)
    ∧ decode .default (.host ⟨0x1, 0x0000, 0, 1, 0, [0x80]⟩) = .ok (.wr 0x0000 1 [0x80])
    ∧ decode .default (.host ⟨0xA, 0, 3, 0, 0x0001, []⟩) = .ok (.exec 3 0x01)
    ∧ decode .default (.uop 0b011) = .ok .softReset

/-! ### Configuration and reset -/

/-- R7: the tier follows from the two build-time parameters. The pairing of tiers and socket counts is the spec's derivation
(D9). -/
def Obligations.TierFollowsConfiguration : Prop :=
  ∀ c : Config, c.legal = true →
    (c.largeBuffers = false → c.tier.ssize = 2048)
      ∧ (c.largeBuffers = true → c.tier.ssize.toNat * c.maxSockNum = 16384)

/-- R30: the partition table, its total of 16384 bytes per direction, and zero for inactive sockets. The total is the spec's
derivation (D9). -/
def Obligations.PartitionTableFillsTheChip : Prop :=
  ∀ c : Config, c.legal = true →
    (∀ i, i < 8 → c.capacity i =
        if c.largeBuffers then (if i < c.maxSockNum then c.tier.ssize.toNat else 0) else 2048)
      ∧ ((List.range 8).map c.capacity).sum = 16384

/-- R37, R270: block reset puts the state in the values of the table, whatever the configuration, and the configuration is as
built; a legal block with nothing to do then waits. All but the first row of the table is the spec's decision D23; that a step
of a waiting block changes nothing is the model's choice (log entry 11), as are block reset as an outside function that keeps
the configuration in State (log entries 2, 17) and the default configuration of `State.reset` (log entry 3, presumed). -/
def Obligations.BlockResetValues : Prop :=
  ∀ s : State,
    s.blockReset.chipState = .uninitialized
      ∧ s.blockReset.phase = .idle
      ∧ s.blockReset.busy = false
      ∧ s.blockReset.csOe = false
      ∧ s.blockReset.busOpen = false
      ∧ s.blockReset.trace = []
      ∧ s.blockReset.cfg = s.cfg
      ∧ State.reset = (State.resetWith .default).blockReset
      ∧ (s.cfg.legal = true → s.offers = [] → step s.blockReset = .next s.blockReset)

/-- R6, D32: under a configuration that is none of this hardware nothing runs. The spec's decision D32; that it is checked at
every operation is the model's choice (log entry 14). -/
def Obligations.IllegalConfigurationIsRefused : Prop :=
  ∀ s : State, s.cfg.legal = false →
    step s = .refused .illegalConfiguration ∧ ∀ i : Instr, ∃ r, exec i s = .refused r

/-! ### The encoder's port -/

/-- R126, R127, R131, R133: the four encoder rows that do not depend on the tier give the frame the rules write out, in any
state of the block, whatever the `sock` input, and change nothing but the port. D8, D34; the port's levels in `enc` are the
model's (log entry 9). -/
def Obligations.RegisterEncoderRowsGiveTheirFrame : Prop :=
  ∀ (s : State) (addr : Half) (sock : BitVec 3), s.cfg.legal = true →
    (addr.toNat < 0x0100 →
        exec (.encCommonR addr sock) s =
            .next { s with enc := ⟨addr, false, sock, ⟨0x00, addr.extractLsb' 0 8, 0x00⟩⟩ }
          ∧ exec (.encCommonW addr sock) s =
            .next { s with enc := ⟨addr, true, sock, ⟨0x00, addr.extractLsb' 0 8, 0x04⟩⟩ })
      ∧ (0x0100 ≤ addr.toNat → addr.toNat < 0x8000 →
        exec (.encSockregR addr sock) s =
            .next { s with enc := ⟨addr, false, sock,
              ⟨0x00, addr.extractLsb' 0 8, ((addr >>> 3) &&& 0x00E0).setWidth 8 ||| 0x08⟩⟩ }
          ∧ exec (.encSockregW addr sock) s =
            .next { s with enc := ⟨addr, true, sock,
              ⟨0x00, addr.extractLsb' 0 8, ((addr >>> 3) &&& 0x00E0).setWidth 8 ||| 0x0C⟩⟩ }
          ∧ ((addr >>> 3) &&& 0x00E0).setWidth 8 ||| 0x08 = addr.extractLsb' 8 3 ++ 0b01000#5
          ∧ ((addr >>> 3) &&& 0x00E0).setWidth 8 ||| 0x0C = addr.extractLsb' 8 3 ++ 0b01100#5)

/-- R128, R130: the eight transmit-buffer rows, each in the tier it belongs to. D6, D7, D8; the port's levels in `enc` are the
model's (log entry 9). -/
def Obligations.TransmitEncoderRowsGiveTheirFrame : Prop :=
  ∀ (s : State) (addr : Half) (sock : BitVec 3), s.cfg.legal = true → 0x8000 ≤ addr.toNat → addr.toNat < 0xC000 →
    (s.cfg.tier = .k2 →
        exec (.encTxbufR2K addr sock) s = .next { s with enc := ⟨addr, false, sock,
            ⟨addr.extractLsb' 8 8, addr.extractLsb' 0 8, ((addr >>> 6) &&& 0x00E0).setWidth 8 ||| 0x10⟩⟩ }
          ∧ exec (.encTxbufW2K addr sock) s = .next { s with enc := ⟨addr, true, sock,
            ⟨addr.extractLsb' 8 8, addr.extractLsb' 0 8, ((addr >>> 6) &&& 0x00E0).setWidth 8 ||| 0x14⟩⟩ })
      ∧ (s.cfg.tier = .k4 →
        exec (.encTxbufR4K addr sock) s = .next { s with enc := ⟨addr, false, sock,
            ⟨addr.extractLsb' 8 8, addr.extractLsb' 0 8, ((addr >>> 7) &&& 0x0060).setWidth 8 ||| 0x10⟩⟩ }
          ∧ exec (.encTxbufW4K addr sock) s = .next { s with enc := ⟨addr, true, sock,
            ⟨addr.extractLsb' 8 8, addr.extractLsb' 0 8, ((addr >>> 7) &&& 0x0060).setWidth 8 ||| 0x14⟩⟩ })
      ∧ (s.cfg.tier = .k8 →
        exec (.encTxbufR8K addr sock) s = .next { s with enc := ⟨addr, false, sock,
            ⟨addr.extractLsb' 8 8, addr.extractLsb' 0 8, ((addr >>> 8) &&& 0x0020).setWidth 8 ||| 0x10⟩⟩ }
          ∧ exec (.encTxbufW8K addr sock) s = .next { s with enc := ⟨addr, true, sock,
            ⟨addr.extractLsb' 8 8, addr.extractLsb' 0 8, ((addr >>> 8) &&& 0x0020).setWidth 8 ||| 0x14⟩⟩ })
      ∧ (s.cfg.tier = .k16 →
        exec (.encTxbufR16K addr sock) s = .next { s with enc := ⟨addr, false, sock,
            ⟨addr.extractLsb' 8 8, addr.extractLsb' 0 8, 0x10⟩⟩ }
          ∧ exec (.encTxbufW16K addr sock) s = .next { s with enc := ⟨addr, true, sock,
            ⟨addr.extractLsb' 8 8, addr.extractLsb' 0 8, 0x14⟩⟩ })

/-- R129, R130: the eight receive-buffer rows, each in the tier it belongs to. D6, D7, D8; the port's levels in `enc` are the
model's (log entry 9). -/
def Obligations.ReceiveEncoderRowsGiveTheirFrame : Prop :=
  ∀ (s : State) (addr : Half) (sock : BitVec 3), s.cfg.legal = true → 0xC000 ≤ addr.toNat →
    (s.cfg.tier = .k2 →
        exec (.encRxbufR2K addr sock) s = .next { s with enc := ⟨addr, false, sock,
            ⟨addr.extractLsb' 8 8, addr.extractLsb' 0 8, ((addr >>> 6) &&& 0x00E0).setWidth 8 ||| 0x18⟩⟩ }
          ∧ exec (.encRxbufW2K addr sock) s = .next { s with enc := ⟨addr, true, sock,
            ⟨addr.extractLsb' 8 8, addr.extractLsb' 0 8, ((addr >>> 6) &&& 0x00E0).setWidth 8 ||| 0x1C⟩⟩ })
      ∧ (s.cfg.tier = .k4 →
        exec (.encRxbufR4K addr sock) s = .next { s with enc := ⟨addr, false, sock,
            ⟨addr.extractLsb' 8 8, addr.extractLsb' 0 8, ((addr >>> 7) &&& 0x0060).setWidth 8 ||| 0x18⟩⟩ }
          ∧ exec (.encRxbufW4K addr sock) s = .next { s with enc := ⟨addr, true, sock,
            ⟨addr.extractLsb' 8 8, addr.extractLsb' 0 8, ((addr >>> 7) &&& 0x0060).setWidth 8 ||| 0x1C⟩⟩ })
      ∧ (s.cfg.tier = .k8 →
        exec (.encRxbufR8K addr sock) s = .next { s with enc := ⟨addr, false, sock,
            ⟨addr.extractLsb' 8 8, addr.extractLsb' 0 8, ((addr >>> 8) &&& 0x0020).setWidth 8 ||| 0x18⟩⟩ }
          ∧ exec (.encRxbufW8K addr sock) s = .next { s with enc := ⟨addr, true, sock,
            ⟨addr.extractLsb' 8 8, addr.extractLsb' 0 8, ((addr >>> 8) &&& 0x0020).setWidth 8 ||| 0x1C⟩⟩ })
      ∧ (s.cfg.tier = .k16 →
        exec (.encRxbufR16K addr sock) s = .next { s with enc := ⟨addr, false, sock,
            ⟨addr.extractLsb' 8 8, addr.extractLsb' 0 8, 0x18⟩⟩ }
          ∧ exec (.encRxbufW16K addr sock) s = .next { s with enc := ⟨addr, true, sock,
            ⟨addr.extractLsb' 8 8, addr.extractLsb' 0 8, 0x1C⟩⟩ })

/-! ### The step -/

/-- The step runs the decoded instruction: a word at a port that decodes to `i` is taken off the port and `i` is run on it, when
no operation runs, and, at the encoder's port, at any time (R32, R131); a word the decoder rejects is refused by that name. What
a step is and the queue at the ports are the model's choice (log entries 1, 11). -/
def Obligations.StepRunsTheDecodedInstruction : Prop :=
  ∀ (s : State) (w : PortWord) (rest : List PortWord),
    s.cfg.legal = true → s.offers = w :: rest → w.format ≠ .uop → (s.busy = false ∨ w.format = .frame) →
      (∀ i, decode s.cfg w = .ok i → step s = exec i { s with offers := rest })
        ∧ ∀ e, decode s.cfg w = .error e → step s = .refused (.rejected e)

/-- R91: the labels name the five micro-operations; no code of the host port decodes to one, and a label put at a port of an
idle block is refused. The labels are the spec's own (D2); the refusal at a port is the model's (log entry 12). -/
def Obligations.MicroOperationsAreNotIssuable : Prop :=
  decodeUop 0b000 = .ok .csCfg ∧ decodeUop 0b001 = .ok .csLow ∧ decodeUop 0b010 = .ok .csHigh
    ∧ decodeUop 0b011 = .ok .softReset ∧ decodeUop 0b100 = .ok .partition
    ∧ (∀ (l : Latches) (i : Instr), decodeHost l = .ok i → i.format = .hostop)
    ∧ ∀ (s : State) (label : BitVec 3) (rest : List PortWord),
        s.cfg.legal = true → s.busy = false → s.offers = .uop label :: rest →
          step s = .refused .microOperationAtPort

/-- R92: the six codes that name no operation are refused, at the port and as instructions. The spec's decision D2. -/
def Obligations.ReservedCodesAreRefused : Prop :=
  (∀ (s : State) (l : Latches) (rest : List PortWord), s.idle → s.offers = .host l :: rest →
      l.op ∈ [0x0, 0x7, 0xC, 0xD, 0xE, 0xF] → step s = .refused (.reservedOpcode l.op))
    ∧ ∀ s : State,
      exec .reserved0 s = .refused (.reservedOpcode 0x0)
        ∧ exec .reserved7 s = .refused (.reservedOpcode 0x7)
        ∧ exec .reservedC s = .refused (.reservedOpcode 0xC)
        ∧ exec .reservedD s = .refused (.reservedOpcode 0xD)
        ∧ exec .reservedE s = .refused (.reservedOpcode 0xE)
        ∧ exec .reservedF s = .refused (.reservedOpcode 0xF)

/-- R29, R279: while an operation runs, no host operation is accepted: the step leaves it waiting at the port, and its meaning
refuses. The spec's decision D26; that the operation waits at its port is the model's choice (log entries 11, 15). -/
def Obligations.BusyBlockAcceptsNoHostOperation : Prop :=
  ∀ s : State, s.cfg.legal = true → s.busy = true →
    (∀ (l : Latches) (rest : List PortWord) (t : State),
        s.offers = .host l :: rest → step s = .next t → t.offers = s.offers)
      ∧ ∀ i : Instr, i.format = .hostop → (∀ c, exec i s ≠ .refused (.reservedOpcode c)) →
          exec i s = .refused .operationInProgress

/-! ### Chip select -/

/-- R111: CSCFG makes the pin an output, then drives it high, and nothing else changes; run again it emits the same two events.
Corner case (b) is the spec's derivation. -/
def Obligations.PinConfiguration : Prop :=
  ∀ s : State, s.cfg.legal = true →
    exec .csCfg s =
      .next { s with csOe := true, csN := true, trace := s.trace ++ [.csDirOut, .csHigh] }

/-- R112: CSLOW asserts, given `cs_oe = 1` and `cs_n = 1`; without the first it is refused. The refusal is the spec's decision
D24, placed by log entry 12. -/
def Obligations.ChipSelectAssert : Prop :=
  ∀ s : State, s.cfg.legal = true →
    (s.csOe = true → s.csN = true →
        exec .csLow s = .next { s with csN := false, trace := s.trace ++ [.csLow] })
      ∧ (s.csOe = false → exec .csLow s = .refused .pinNotConfigured)

/-- R113: CSHIGH deasserts, given `cs_n = 0` on a driven pin. The precondition is R113's; what happens without it is the model's
choice and not stated here (log entry 12). -/
def Obligations.ChipSelectDeassert : Prop :=
  ∀ s : State, s.cfg.legal = true → s.csOe = true → s.csN = false →
    exec .csHigh s = .next { s with csN := true, trace := s.trace ++ [.csHigh] }

/-! ### Register access -/

/-- R153, R154, R163: a write of at most 5 bytes is one burst of frame and payload inside one chip-select pair; it returns
`len`. R21: the frame buffer holds what was sent. Model's choices: one step (log entry 1), unused latches (6), the counter
`drawn` (4), what stands in `fb` afterwards (20). -/
def Obligations.ShortWriteIsOneBurst : Prop :=
  ∀ (s : State) (addr len : Half) (wbuf : List Byte), s.ready → wbuf.length = len.toNat → len.toNat ≤ 5 →
    ∃ fb, fb.bytes.take (3 + len.toNat) = (enc s.cfg.tier addr true).bytes ++ wbuf
      ∧ exec (.wr addr len wbuf) s = .next { s with
          phase := .idle, csN := true, fb := fb
          latch := { s.latch with op := 0x1, addr := addr, len := len, wbuf := wbuf }
          res := { s.res with count := len }
          drawn := s.drawn + (3 + len.toNat)
          trace := s.trace ++ [.csLow,
            .xfer ((enc s.cfg.tier addr true).bytes ++ wbuf) (s.received s.drawn (3 + len.toNat)), .csHigh] }

/-- R153, R154: a write of more than 5 bytes is a header burst and a payload burst, chip select asserted across both. Model's
choices: one step (log entry 1), unused latches (6), the counter `drawn` (4), what stands in `fb` afterwards (20). -/
def Obligations.LongWriteIsTwoBursts : Prop :=
  ∀ (s : State) (addr len : Half) (wbuf : List Byte), s.ready → wbuf.length = len.toNat → 5 < len.toNat →
    ∃ fb, fb.bytes.take 3 = (enc s.cfg.tier addr true).bytes
      ∧ exec (.wr addr len wbuf) s = .next { s with
          phase := .idle, csN := true, fb := fb
          latch := { s.latch with op := 0x1, addr := addr, len := len, wbuf := wbuf }
          res := { s.res with count := len }
          drawn := s.drawn + (3 + len.toNat)
          trace := s.trace ++ [.csLow,
            .xfer (enc s.cfg.tier addr true).bytes (s.received s.drawn 3),
            .xfer wbuf (s.received (s.drawn + 3) len.toNat), .csHigh] }

/-- R156, R157, R163: a read is a header burst and, for `len > 0`, a payload burst of `len` zero bytes; `rbuf` is what that
burst received. The bytes sent and the zero length are the spec's decisions D12 and D13. Model's choices: log entries 1, 4, 6,
and 20 for what stands in `fb` afterwards. -/
def Obligations.ReadIsHeaderThenZeros : Prop :=
  ∀ (s : State) (addr len : Half), s.ready →
    ∃ fb, fb.bytes.take 3 = (enc s.cfg.tier addr false).bytes
      ∧ exec (.rd addr len) s = .next { s with
          phase := .idle, csN := true, fb := fb
          latch := { s.latch with op := 0x2, addr := addr, len := len }
          res := { s.res with count := len, rbuf := s.received (s.drawn + 3) len.toNat }
          drawn := s.drawn + (3 + len.toNat)
          trace := s.trace ++
            if len = 0 then
              [.csLow, .xfer (enc s.cfg.tier addr false).bytes (s.received s.drawn 3), .csHigh]
            else
              [.csLow, .xfer (enc s.cfg.tier addr false).bytes (s.received s.drawn 3),
                .xfer (List.replicate len.toNat 0x00) (s.received (s.drawn + 3) len.toNat), .csHigh] }

/-- R159, R161: WR8 is one 4-byte burst and returns 1; WR16 is one 5-byte burst, most significant byte first, and returns 2. The
byte order is the spec's decision D11. Model's choices: log entries 1, 4, 6, and 20 for what stands in `fb` afterwards. -/
def Obligations.ByteAndWordWrites : Prop :=
  ∀ (s : State) (addr : Half), s.ready →
    (∀ v : Byte, ∃ fb,
        fb.bytes.take 4 = (enc s.cfg.tier addr true).bytes ++ [v]
          ∧ exec (.wr8 addr v) s = .next { s with
            phase := .idle, csN := true, fb := fb
            latch := { s.latch with op := 0x3, addr := addr, val := v.setWidth 16 }
            res := { s.res with count := 1 }
            drawn := s.drawn + 4
            trace := s.trace ++
              [.csLow, .xfer ((enc s.cfg.tier addr true).bytes ++ [v]) (s.received s.drawn 4), .csHigh] })
      ∧ ∀ v : Half, ∃ fb,
        fb.bytes.take 5 = (enc s.cfg.tier addr true).bytes ++ [v.extractLsb' 8 8, v.extractLsb' 0 8]
          ∧ exec (.wr16 addr v) s = .next { s with
            phase := .idle, csN := true, fb := fb
            latch := { s.latch with op := 0x5, addr := addr, val := v }
            res := { s.res with count := 2 }
            drawn := s.drawn + 5
            trace := s.trace ++
              [.csLow, .xfer ((enc s.cfg.tier addr true).bytes ++ [v.extractLsb' 8 8, v.extractLsb' 0 8])
                (s.received s.drawn 5), .csHigh] }

/-- R160, R162: RD8 returns its byte widened with zeros; RD16 returns `{b0, b1}`, the first byte received the high half. The
byte order is the spec's decision D11, the bytes sent D12. Model's choices: log entries 1, 4, 6, and 20 for what stands in `fb`
afterwards. -/
def Obligations.ByteAndWordReads : Prop :=
  ∀ (s : State) (addr : Half), s.ready →
    (∃ fb, fb.bytes.take 3 = (enc s.cfg.tier addr false).bytes
      ∧ exec (.rd8 addr) s = .next { s with
          phase := .idle, csN := true, fb := fb
          latch := { s.latch with op := 0x4, addr := addr }
          res := { s.res with count := 1, rbuf := [s.oracle (s.drawn + 3)], val := (s.oracle (s.drawn + 3)).setWidth 16 }
          drawn := s.drawn + 4
          trace := s.trace ++ [.csLow, .xfer (enc s.cfg.tier addr false).bytes (s.received s.drawn 3),
            .xfer [0x00] [s.oracle (s.drawn + 3)], .csHigh] })
      ∧ ∃ fb, fb.bytes.take 3 = (enc s.cfg.tier addr false).bytes
      ∧ exec (.rd16 addr) s = .next { s with
          phase := .idle, csN := true, fb := fb
          latch := { s.latch with op := 0x6, addr := addr }
          res := { s.res with
            count := 2, rbuf := [s.oracle (s.drawn + 3), s.oracle (s.drawn + 4)]
            val := s.oracle (s.drawn + 3) ++ s.oracle (s.drawn + 4) }
          drawn := s.drawn + 5
          trace := s.trace ++ [.csLow, .xfer (enc s.cfg.tier addr false).bytes (s.received s.drawn 3),
            .xfer [0x00, 0x00] [s.oracle (s.drawn + 3), s.oracle (s.drawn + 4)], .csHigh] }

/-- R87, R154: whatever the length, the byte stream of a write is the frame and then the payload, inside one chip-select pair; the
split into bursts follows the length. -/
def Obligations.WriteStreamIsFrameThenPayload : Prop :=
  ∀ (s t : State) (addr len : Half) (wbuf : List Byte), wbuf.length = len.toNat →
    exec (.wr addr len wbuf) s = .next t →
      ∃ ev, t.trace = s.trace ++ [.csLow] ++ ev ++ [.csHigh]
        ∧ sentBytes ev = (enc s.cfg.tier addr true).bytes ++ wbuf
        ∧ (len.toNat ≤ 5 → ∃ rx, ev = [.xfer ((enc s.cfg.tier addr true).bytes ++ wbuf) rx])
        ∧ (5 < len.toNat → ∃ rx1 rx2, ev = [.xfer (enc s.cfg.tier addr true).bytes rx1, .xfer wbuf rx2])

/-- R152: WR and RD complete on a ready block and return `len`, whatever the bus answers. -/
def Obligations.AccessesReturnTheirLength : Prop :=
  ∀ (s : State) (addr len : Half), s.ready →
    (∀ wbuf, wbuf.length = len.toNat → ∃ t, exec (.wr addr len wbuf) s = .next t ∧ t.res.count = len)
      ∧ ∃ t, exec (.rd addr len) s = .next t ∧ t.res.count = len ∧ t.res.rbuf.length = len.toNat

/-- The frame of the six register accesses: only the latches, the access's own result registers, the chip-select level, the
frame buffer, the phase and the trace may change (R158, R166, R181, R190). Which latches and results keep their value is the
model's choice (log entries 6, 7). -/
def Obligations.RegisterAccessFrame : Prop :=
  ∀ (i : Instr) (s t : State),
    ((∃ addr len wbuf, i = .wr addr len wbuf) ∨ (∃ addr len, i = .rd addr len) ∨ (∃ addr v, i = .wr8 addr v)
      ∨ (∃ addr, i = .rd8 addr) ∨ (∃ addr v, i = .wr16 addr v) ∨ ∃ addr, i = .rd16 addr) →
    exec i s = .next t →
      t = { s with
          phase := .idle, csN := true, fb := t.fb, latch := t.latch, res := t.res, drawn := t.drawn, trace := t.trace }
        ∧ t.latch.sock = s.latch.sock
        ∧ t.res.ok = s.res.ok ∧ t.res.link = s.res.link
        ∧ (((∃ addr len wbuf, i = .wr addr len wbuf) ∨ (∃ addr v, i = .wr8 addr v) ∨ ∃ addr v, i = .wr16 addr v) →
            t.res.rbuf = s.res.rbuf ∧ t.res.val = s.res.val)
        ∧ ((∃ addr len, i = .rd addr len) → t.res.val = s.res.val)

/-- R165: what the bus answers during a write reaches nothing: under other answers the write ends in the same state, but for the
received halves of its own events, and does the same at its ports; `wbuf` holds what it held. The spec's decision D12; `answers`
is the model's field (log entry 4). -/
def Obligations.WritesIgnoreWhatTheyReceive : Prop :=
  ∀ (i : Instr) (s t : State) (other : List Byte),
    ((∃ addr len wbuf, i = .wr addr len wbuf) ∨ (∃ addr v, i = .wr8 addr v) ∨ ∃ addr v, i = .wr16 addr v) →
    exec i s = .next t →
      ∃ tr, exec i { s with answers := other } = .next { t with answers := other, trace := tr }
        ∧ ownEvents tr = ownEvents t.trace
        ∧ ∀ addr len wbuf, i = .wr addr len wbuf → t.latch.wbuf = wbuf

/-- R167: with the pin not configured the eight bus operations are refused, in any `chip_state`; INIT and LINK run. The spec's
decision D24. -/
def Obligations.BusOperationsNeedTheConfiguredPin : Prop :=
  ∀ s : State, s.idle → s.csOe = false →
    (∀ addr len wbuf, exec (.wr addr len wbuf) s = .refused .pinNotConfigured)
      ∧ (∀ addr len, exec (.rd addr len) s = .refused .pinNotConfigured)
      ∧ (∀ addr v, exec (.wr8 addr v) s = .refused .pinNotConfigured)
      ∧ (∀ addr, exec (.rd8 addr) s = .refused .pinNotConfigured)
      ∧ (∀ addr v, exec (.wr16 addr v) s = .refused .pinNotConfigured)
      ∧ (∀ addr, exec (.rd16 addr) s = .refused .pinNotConfigured)
      ∧ (∀ sock c, exec (.exec sock c) s = .refused .pinNotConfigured)
      ∧ exec .verify s = .refused .pinNotConfigured
      ∧ (∃ t, exec .init s = .next t) ∧ ∃ t, exec .link s = .next t

/-! ### The chip controller -/

/-- R183: a soft reset whose `k`-th read (from 0) is the first zero costs 1 write, `k + 1` reads and `k` delays. `cause` shows
SOFTRESET's result, the model's choice (log entry 8); the counter `drawn` is log entry 4; that `res_count`, `rbuf` and `res_val`
keep their value is log entry 7 (deduced). -/
def Obligations.SoftResetClearsAtFirstZero : Prop :=
  ∀ (s : State) (k : Nat), s.cfg.legal = true → s.csOe = true → s.softResetClears s.drawn k →
    ∃ fb, exec .softReset s = .next { s with
      csN := true, fb := fb, pollCount := BitVec.ofNat 5 k, cause := none
      drawn := s.drawn + (4 * k + 8), trace := s.trace ++ softResetTrace s s.drawn k }

/-- R183 (the document's testable property): a mode register that never reads zero makes the soft reset fail after exactly 20
reads and 20 delays. The delay after the last read is the spec's decision D16; `cause` is log entry 8, `drawn` log entry 4; that
`res_count`, `rbuf` and `res_val` keep their value is log entry 7 (deduced). -/
def Obligations.SoftResetTimesOut : Prop :=
  ∀ s : State, s.cfg.legal = true → s.csOe = true → s.softResetFails s.drawn →
    ∃ fb, exec .softReset s = .next { s with
      csN := true, fb := fb, pollCount := 20, cause := some .resetTimeout
      drawn := s.drawn + 84, trace := s.trace ++ timeoutTrace s s.drawn }

/-- R184: VERIFY on answers that pass every check. The shape is the spec's decision D17. Model's choices: log entries 1, 4, 6,
7, 8. -/
def Obligations.VerifySucceeds : Prop :=
  ∀ (s : State) (k : Nat), s.ready → s.verifies s.drawn k →
    ∃ fb, exec .verify s = .next { s with
      phase := .idle, csN := true, fb := fb, pollCount := BitVec.ofNat 5 k
      latch := { s.latch with op := 0xB }, res := { s.res with ok := true }, cause := none
      drawn := s.drawn + (4 * k + 36), trace := s.trace ++ fullVerifyTrace s s.drawn k }

/-- R184, R241, R244, R246: VERIFY ends at its first failing check, with no further bus traffic; a host-issued one touches
neither `chip_state` nor the bus lock (R245). That the first mismatch ends it is the spec's decision D17, the cause D22. Model's
choices: log entries 1, 4, 6, 7, 8. -/
def Obligations.VerifyFailsAtFirstMismatch : Prop :=
  ∀ (s : State) (c : Cause) (ev : List Event) (n : Nat) (p : BitVec 5), s.ready → s.failsAs s.drawn c ev n p →
    ∃ fb, exec .verify s = .next { s with
      phase := .idle, csN := true, fb := fb, pollCount := p
      latch := { s.latch with op := 0xB }, res := { s.res with ok := false }, cause := some c
      drawn := s.drawn + n, trace := s.trace ++ ev }

/-- R241: whatever the bus answers, VERIFY on a ready block, and INIT with the latch clear, end with `res_ok` 1 after an
identity verification that passes every check, or with `res_ok` 0 after one that fails as one of the five causes says.
The causes' names are the spec's decision D22; `cause` is log entry 8, one step log entry 1. -/
def Obligations.VerificationOutcomesAreExhaustive : Prop :=
  (∀ s : State, s.ready → ∃ t, exec .verify s = .next t ∧ s.verdictIn t)
    ∧ ∀ s : State, s.idle → s.chipState ≠ .operational → ∃ t, exec .init s = .next t ∧ s.verdictIn t

/-- R185: nothing with large buffers off; with large buffers on, exactly the sixteen one-byte writes of the size registers. The
unit and the order are the spec's decision D18; `drawn` is log entry 4; that `res_count`, `rbuf` and `res_val` keep their value
is log entry 7 (deduced). -/
def Obligations.PartitionWritesTheSizeRegisters : Prop :=
  ∀ s : State, s.cfg.legal = true →
    (s.cfg.largeBuffers = false → exec .partition s = .next s)
      ∧ (s.cfg.largeBuffers = true → s.csOe = true →
          ∃ fb, exec .partition s = .next { s with
            csN := true, fb := fb, drawn := s.drawn + 64, trace := s.trace ++ partitionTrace s s.drawn })

/-- R182, R190: INIT with the latch clear, on answers that pass: settle, pin, lock, verification, partition, unlock, latch. The
place of the unlock is the spec's decision D19. Model's choices: log entries 1, 4, 6, 7, 8. -/
def Obligations.InitSucceeds : Prop :=
  ∀ (s : State) (k : Nat), s.idle → s.chipState ≠ .operational → s.verifies s.drawn k →
    ∃ fb, exec .init s = .next { s with
      chipState := .operational, phase := .idle, csOe := true, csN := true, busOpen := false, fb := fb
      pollCount := BitVec.ofNat 5 k
      latch := { s.latch with op := 0x8 }, res := { s.res with ok := true }, cause := none
      drawn := s.drawn + (4 * k + 36) + (if s.cfg.largeBuffers then 64 else 0)
      trace := s.trace ++ [.delay s.cfg.resetSettleUnits, .csDirOut, .csHigh, .busBegin]
        ++ fullVerifyTrace s s.drawn k
        ++ (if s.cfg.largeBuffers then partitionTrace s (s.drawn + (4 * k + 36)) else [])
        ++ [.busEnd] }

/-- R182, R189, R190, R245: INIT whose verification fails leaves the latch clear and the lock released, the pin configured and
high, and no size register written. The unlock and the state after failure are the spec's decisions D19 and D20. Model's
choices: log entries 1, 4, 6, 7, 8. -/
def Obligations.InitFailsClean : Prop :=
  ∀ (s : State) (c : Cause) (ev : List Event) (n : Nat) (p : BitVec 5),
    s.idle → s.chipState ≠ .operational → s.failsAs s.drawn c ev n p →
    ∃ fb, exec .init s = .next { s with
      chipState := .uninitialized, phase := .idle, csOe := true, csN := true, busOpen := false, fb := fb
      pollCount := p
      latch := { s.latch with op := 0x8 }, res := { s.res with ok := false }, cause := some c
      drawn := s.drawn + n
      trace := s.trace ++ [.delay s.cfg.resetSettleUnits, .csDirOut, .csHigh, .busBegin] ++ ev ++ [.busEnd] }

/-- R188: with the latch set INIT answers success at once: no event, no delay, no pin touched. Beside R188, the equation fixes
the model's choices: the latches (log entry 6), the ghost cause (log entry 8), one step (log entry 1). -/
def Obligations.InitIsIdempotent : Prop :=
  ∀ s : State, s.idle → s.chipState = .operational →
    exec .init s = .next { s with
      phase := .idle, latch := { s.latch with op := 0x8 }, res := { s.res with ok := true }, cause := none }

/-- R186, R39: with the latch set LINK is one read of the status register, and its link bit alone decides Up or Down. The sense
of the bit is the spec's decision D21. Model's choices: log entries 1, 4, 6, 7, 8. -/
def Obligations.LinkReadsLive : Prop :=
  ∀ s : State, s.idle → s.chipState = .operational →
    ∃ fb, exec .link s = .next { s with
      phase := .idle, csN := true, fb := fb, latch := { s.latch with op := 0x9 }, cause := none
      res := { s.res with
        ok := true
        link := if s.oracle (s.drawn + 3) &&& s.cfg.linkMask ≠ 0x00 then .up else .down }
      drawn := s.drawn + 4
      trace := s.trace ++ read8Trace s s.cfg.phyAddr s.drawn }

/-- R186, D29: with the latch clear LINK first runs exactly INIT, with every effect INIT has; Unknown, and no read, if that
fails. D21 and D29 are the spec's decisions. Model's choices: log entries 1, 4, 6, 7. -/
def Obligations.LinkRunsInit : Prop :=
  ∀ s u : State, s.chipState ≠ .operational → exec .init s = .next u →
    (u.res.ok = false → ∃ fb,
        exec .link s = .next { u with
          fb := fb, latch := { u.latch with op := 0x9 }, res := { u.res with link := .unknown } })
      ∧ (u.res.ok = true → ∃ fb,
        exec .link s = .next { u with
          fb := fb, latch := { u.latch with op := 0x9 }
          res := { u.res with
            link := if u.oracle (u.drawn + 3) &&& u.cfg.linkMask ≠ 0x00 then .up else .down }
          drawn := u.drawn + 4
          trace := u.trace ++ read8Trace u u.cfg.phyAddr u.drawn })

/-- R187: EXEC writes the command code and polls; a first poll that reads zero ends it. The shape of the poll is the spec's
decision D30. Model's choices: log entries 1, 4, 6, 7. -/
def Obligations.ExecEndsAtFirstZeroPoll : Prop :=
  ∀ (s : State) (sock : BitVec 3) (c : Byte), s.ready → s.oracle (s.drawn + 7) = 0x00 →
    ∃ fb, exec (.exec sock c) s = .next { s with
      phase := .idle, csN := true, fb := fb
      latch := { s.latch with op := 0xA, sock := sock, val := c.setWidth 16 }
      drawn := s.drawn + 8
      trace := s.trace ++ write8Trace s (s.cfg.snAddr sock s.cfg.snCrOff) c s.drawn
        ++ read8Trace s (s.cfg.snAddr sock s.cfg.snCrOff) (s.drawn + 4) }

/-- R187: EXEC whose first poll reads a non-zero byte stays busy at its poll label. The shape of the poll is the spec's decision
D30; that the step ends here is the model's choice (log entry 1), as are 4, 6, 7. -/
def Obligations.ExecStaysBusyOnNonZeroPoll : Prop :=
  ∀ (s : State) (sock : BitVec 3) (c : Byte), s.ready → s.oracle (s.drawn + 7) ≠ 0x00 →
    ∃ fb, exec (.exec sock c) s = .next { s with
      busy := true, phase := .exPoll, csN := true, fb := fb
      latch := { s.latch with op := 0xA, sock := sock, val := c.setWidth 16 }
      drawn := s.drawn + 8
      trace := s.trace ++ write8Trace s (s.cfg.snAddr sock s.cfg.snCrOff) c s.drawn
        ++ read8Trace s (s.cfg.snAddr sock s.cfg.snCrOff) (s.drawn + 4) }

/-- R192, R249: as long as the polls read non-zero bytes EXEC goes on, one whole read transaction an iteration, no bound and no
delay; encoder requests at the ports are served first and disturb nothing (R131), and a host operation behind them waits.
Model's choices: one step is one poll or one encoder request (log entries 1, 11), `drawn` (4), `enc` (9); that the polls leave
`res_count`, `rbuf` and `res_val` alone is log entry 7 (deduced). -/
def Obligations.ExecSpinsWhileNonZero : Prop :=
  ∀ (n : Nat) (s : State) (reqs rest : List PortWord), s.spinning → s.portsHold reqs rest →
    (∀ j < n, s.oracle (s.drawn + 4 * j + 3) ≠ 0x00) →
    ∃ fb e, (reqs = [] → e = s.enc)
      ∧ Sys2Proof.core.run (reqs.length + n) s = .next { s with
        fb := fb, enc := e, offers := rest, drawn := s.drawn + 4 * n, trace := s.trace ++ pollTraces s s.drawn n }

/-- R187: EXEC ends at the first poll that reads zero, after exactly the non-zero ones before it; encoder requests at the ports
are served first and disturb nothing (R131). The shape of the poll is the spec's decision D30. Model's choices: one step is one
poll or one encoder request (log entries 1, 11), `drawn` (4), `enc` (9); that the polls leave `res_count`, `rbuf` and `res_val`
alone is log entry 7 (deduced). -/
def Obligations.ExecCompletesWhenTheChipClears : Prop :=
  ∀ (n : Nat) (s : State) (reqs rest : List PortWord), s.spinning → s.portsHold reqs rest →
    (∀ j < n, s.oracle (s.drawn + 4 * j + 3) ≠ 0x00) → s.oracle (s.drawn + 4 * n + 3) = 0x00 →
    ∃ fb e, (reqs = [] → e = s.enc)
      ∧ Sys2Proof.core.run (reqs.length + (n + 1)) s = .next { s with
        busy := false, phase := .idle, fb := fb, enc := e, offers := rest, drawn := s.drawn + 4 * (n + 1)
        trace := s.trace ++ pollTraces s s.drawn (n + 1) }

/-! ### Rules of the whole machine -/

/-- R181, R190: of all instructions only INIT, and LINK through it, change `chip_state` or the bus lock or emit a bus event;
beside them only CSCFG changes `cs_oe`. That no other operation locks the bus is the spec's decision D19. -/
def Obligations.OnlyInitMovesChipStateAndLock : Prop :=
  ∀ (i : Instr) (s t : State), exec i s = .next t → i ≠ .init → i ≠ .link →
    t.chipState = s.chipState ∧ t.busOpen = s.busOpen ∧ (i ≠ .csCfg → t.csOe = s.csOe)
      ∧ ∃ ev, t.trace = s.trace ++ ev ∧ .busBegin ∉ ev ∧ .busEnd ∉ ev

/-- R38, R114, R115, R190: the invariant between steps holds at block reset of every legal configuration. The spec derives R38;
the reset values are its decision D23 and the configuration log entry 3. -/
def Obligations.InvariantHoldsAtReset : Prop :=
  BlockInv State.reset ∧ ∀ c : Config, c.legal = true → BlockInv (State.resetWith c)

/-- R38, R114, R115, R190: every step keeps the invariant: chip select strictly paired, bursts only inside transactions of one
or two bursts, the bus lock paired and free between steps, the pins as the trace shows them. The spec derives R38 and R115;
`busy` between steps follows log entry 1. -/
def Obligations.EveryStepKeepsTheInvariant : Prop :=
  ∀ s t : State, BlockInv s → step s = .next t → BlockInv t

/-- R62, R65: every step keeps the trace faithful: what stands in it as received is what the environment answered, in order,
nothing dropped, repeated or reordered. The answers' list and counter are the model's (log entry 4). -/
def Obligations.EveryStepKeepsTheTraceFaithful : Prop :=
  Faithful State.reset ∧ ∀ s t : State, BlockInv s → Faithful s → step s = .next t → Faithful t

/-- R23, R31, R38 (d) and (e): a step changes neither the configuration nor the environment's answers, never clears the latch or
the pin's direction, and only adds to the trace. The spec derives R38 (d) and (e); the configuration in State is log entry 2,
the answers log entry 4. -/
def Obligations.StepsAreMonotone : Prop :=
  ∀ s t : State, BlockInv s → step s = .next t →
    t.cfg = s.cfg ∧ t.answers = s.answers
      ∧ (s.chipState = .operational → t.chipState = .operational)
      ∧ (s.csOe = true → t.csOe = true)
      ∧ s.drawn ≤ t.drawn
      ∧ ∃ ev, t.trace = s.trace ++ ev

/-! ### The surrounding software -/

/-- R225: the raw retransmission time is `min(v, 6553) × 10`, at most 65530, and reaches the chip by one WR16. The facade is
outside the hardware (log entry 21); its register address is a parameter (D33). R225 gives no width for `v`; the statement takes
every natural number (log entry 21). -/
def Obligations.RetransmissionTimeoutIsClamped : Prop :=
  ∀ (p : FacadeParams) (v : Nat),
    (rtrRaw v).toNat = min v 6553 * 10
      ∧ (rtrRaw v).toNat ≤ 65530
      ∧ p.setRetransmissionTimeout v = .wr16 p.rtr (rtrRaw v)
      ∧ rtrRaw 10000 = 0xFFFA
end

