-- ==== Sys2Proof/Laws/State.lean ====
section
/-! SUPPORT. What each named update of the state does to each field: one lemma per field per update. -/

namespace Sys2Proof.Machine.State

variable (s : State)

@[simp] theorem emit_cfg (e : Event) : (s.emit e).cfg = s.cfg := rfl
@[simp] theorem emit_chipState (e : Event) : (s.emit e).chipState = s.chipState := rfl
@[simp] theorem emit_phase (e : Event) : (s.emit e).phase = s.phase := rfl
@[simp] theorem emit_busy (e : Event) : (s.emit e).busy = s.busy := rfl
@[simp] theorem emit_csOe (e : Event) : (s.emit e).csOe = s.csOe := rfl
@[simp] theorem emit_csN (e : Event) : (s.emit e).csN = s.csN := rfl
@[simp] theorem emit_busOpen (e : Event) : (s.emit e).busOpen = s.busOpen := rfl
@[simp] theorem emit_pollCount (e : Event) : (s.emit e).pollCount = s.pollCount := rfl
@[simp] theorem emit_fb (e : Event) : (s.emit e).fb = s.fb := rfl
@[simp] theorem emit_latch (e : Event) : (s.emit e).latch = s.latch := rfl
@[simp] theorem emit_res (e : Event) : (s.emit e).res = s.res := rfl
@[simp] theorem emit_trace (e : Event) : (s.emit e).trace = s.trace ++ [e] := rfl
@[simp] theorem emit_cause (e : Event) : (s.emit e).cause = s.cause := rfl
@[simp] theorem emit_enc (e : Event) : (s.emit e).enc = s.enc := rfl
@[simp] theorem emit_answers (e : Event) : (s.emit e).answers = s.answers := rfl
@[simp] theorem emit_drawn (e : Event) : (s.emit e).drawn = s.drawn := rfl
@[simp] theorem emit_offers (e : Event) : (s.emit e).offers = s.offers := rfl

@[simp] theorem enter_cfg (p : Phase) : (s.enter p).cfg = s.cfg := rfl
@[simp] theorem enter_chipState (p : Phase) : (s.enter p).chipState = s.chipState := rfl
@[simp] theorem enter_phase (p : Phase) : (s.enter p).phase = p := rfl
@[simp] theorem enter_busy (p : Phase) : (s.enter p).busy = s.busy := rfl
@[simp] theorem enter_csOe (p : Phase) : (s.enter p).csOe = s.csOe := rfl
@[simp] theorem enter_csN (p : Phase) : (s.enter p).csN = s.csN := rfl
@[simp] theorem enter_busOpen (p : Phase) : (s.enter p).busOpen = s.busOpen := rfl
@[simp] theorem enter_pollCount (p : Phase) : (s.enter p).pollCount = s.pollCount := rfl
@[simp] theorem enter_fb (p : Phase) : (s.enter p).fb = s.fb := rfl
@[simp] theorem enter_latch (p : Phase) : (s.enter p).latch = s.latch := rfl
@[simp] theorem enter_res (p : Phase) : (s.enter p).res = s.res := rfl
@[simp] theorem enter_trace (p : Phase) : (s.enter p).trace = s.trace := rfl
@[simp] theorem enter_cause (p : Phase) : (s.enter p).cause = s.cause := rfl
@[simp] theorem enter_enc (p : Phase) : (s.enter p).enc = s.enc := rfl
@[simp] theorem enter_answers (p : Phase) : (s.enter p).answers = s.answers := rfl
@[simp] theorem enter_drawn (p : Phase) : (s.enter p).drawn = s.drawn := rfl
@[simp] theorem enter_offers (p : Phase) : (s.enter p).offers = s.offers := rfl

@[simp] theorem burst_cfg (out : List Byte) : (s.burst out).cfg = s.cfg := rfl
@[simp] theorem burst_chipState (out : List Byte) : (s.burst out).chipState = s.chipState := rfl
@[simp] theorem burst_phase (out : List Byte) : (s.burst out).phase = s.phase := rfl
@[simp] theorem burst_busy (out : List Byte) : (s.burst out).busy = s.busy := rfl
@[simp] theorem burst_csOe (out : List Byte) : (s.burst out).csOe = s.csOe := rfl
@[simp] theorem burst_csN (out : List Byte) : (s.burst out).csN = s.csN := rfl
@[simp] theorem burst_busOpen (out : List Byte) : (s.burst out).busOpen = s.busOpen := rfl
@[simp] theorem burst_pollCount (out : List Byte) : (s.burst out).pollCount = s.pollCount := rfl
@[simp] theorem burst_fb (out : List Byte) : (s.burst out).fb = s.fb := rfl
@[simp] theorem burst_latch (out : List Byte) : (s.burst out).latch = s.latch := rfl
@[simp] theorem burst_res (out : List Byte) : (s.burst out).res = s.res := rfl
@[simp] theorem burst_trace (out : List Byte) : (s.burst out).trace = s.trace ++ [.xfer out (s.draws out.length)] := rfl
@[simp] theorem burst_cause (out : List Byte) : (s.burst out).cause = s.cause := rfl
@[simp] theorem burst_enc (out : List Byte) : (s.burst out).enc = s.enc := rfl
@[simp] theorem burst_answers (out : List Byte) : (s.burst out).answers = s.answers := rfl
@[simp] theorem burst_drawn (out : List Byte) : (s.burst out).drawn = s.drawn + out.length := rfl
@[simp] theorem burst_offers (out : List Byte) : (s.burst out).offers = s.offers := rfl

@[simp] theorem delay_cfg (u : Nat) : (s.delay u).cfg = s.cfg := rfl
@[simp] theorem delay_chipState (u : Nat) : (s.delay u).chipState = s.chipState := rfl
@[simp] theorem delay_phase (u : Nat) : (s.delay u).phase = s.phase := rfl
@[simp] theorem delay_busy (u : Nat) : (s.delay u).busy = s.busy := rfl
@[simp] theorem delay_csOe (u : Nat) : (s.delay u).csOe = s.csOe := rfl
@[simp] theorem delay_csN (u : Nat) : (s.delay u).csN = s.csN := rfl
@[simp] theorem delay_busOpen (u : Nat) : (s.delay u).busOpen = s.busOpen := rfl
@[simp] theorem delay_pollCount (u : Nat) : (s.delay u).pollCount = s.pollCount := rfl
@[simp] theorem delay_fb (u : Nat) : (s.delay u).fb = s.fb := rfl
@[simp] theorem delay_latch (u : Nat) : (s.delay u).latch = s.latch := rfl
@[simp] theorem delay_res (u : Nat) : (s.delay u).res = s.res := rfl
@[simp] theorem delay_trace (u : Nat) : (s.delay u).trace = s.trace ++ [.delay u] := rfl
@[simp] theorem delay_cause (u : Nat) : (s.delay u).cause = s.cause := rfl
@[simp] theorem delay_enc (u : Nat) : (s.delay u).enc = s.enc := rfl
@[simp] theorem delay_answers (u : Nat) : (s.delay u).answers = s.answers := rfl
@[simp] theorem delay_drawn (u : Nat) : (s.delay u).drawn = s.drawn := rfl
@[simp] theorem delay_offers (u : Nat) : (s.delay u).offers = s.offers := rfl

@[simp] theorem configurePin_cfg : (s.configurePin).cfg = s.cfg := rfl
@[simp] theorem configurePin_chipState : (s.configurePin).chipState = s.chipState := rfl
@[simp] theorem configurePin_phase : (s.configurePin).phase = s.phase := rfl
@[simp] theorem configurePin_busy : (s.configurePin).busy = s.busy := rfl
@[simp] theorem configurePin_csOe : (s.configurePin).csOe = true := rfl
@[simp] theorem configurePin_csN : (s.configurePin).csN = true := rfl
@[simp] theorem configurePin_busOpen : (s.configurePin).busOpen = s.busOpen := rfl
@[simp] theorem configurePin_pollCount : (s.configurePin).pollCount = s.pollCount := rfl
@[simp] theorem configurePin_fb : (s.configurePin).fb = s.fb := rfl
@[simp] theorem configurePin_latch : (s.configurePin).latch = s.latch := rfl
@[simp] theorem configurePin_res : (s.configurePin).res = s.res := rfl
@[simp] theorem configurePin_trace : (s.configurePin).trace = s.trace ++ [.csDirOut, .csHigh] := rfl
@[simp] theorem configurePin_cause : (s.configurePin).cause = s.cause := rfl
@[simp] theorem configurePin_enc : (s.configurePin).enc = s.enc := rfl
@[simp] theorem configurePin_answers : (s.configurePin).answers = s.answers := rfl
@[simp] theorem configurePin_drawn : (s.configurePin).drawn = s.drawn := rfl
@[simp] theorem configurePin_offers : (s.configurePin).offers = s.offers := rfl

@[simp] theorem selectChip_cfg : (s.selectChip).cfg = s.cfg := rfl
@[simp] theorem selectChip_chipState : (s.selectChip).chipState = s.chipState := rfl
@[simp] theorem selectChip_phase : (s.selectChip).phase = s.phase := rfl
@[simp] theorem selectChip_busy : (s.selectChip).busy = s.busy := rfl
@[simp] theorem selectChip_csOe : (s.selectChip).csOe = s.csOe := rfl
@[simp] theorem selectChip_csN : (s.selectChip).csN = false := rfl
@[simp] theorem selectChip_busOpen : (s.selectChip).busOpen = s.busOpen := rfl
@[simp] theorem selectChip_pollCount : (s.selectChip).pollCount = s.pollCount := rfl
@[simp] theorem selectChip_fb : (s.selectChip).fb = s.fb := rfl
@[simp] theorem selectChip_latch : (s.selectChip).latch = s.latch := rfl
@[simp] theorem selectChip_res : (s.selectChip).res = s.res := rfl
@[simp] theorem selectChip_trace : (s.selectChip).trace = s.trace ++ [.csLow] := rfl
@[simp] theorem selectChip_cause : (s.selectChip).cause = s.cause := rfl
@[simp] theorem selectChip_enc : (s.selectChip).enc = s.enc := rfl
@[simp] theorem selectChip_answers : (s.selectChip).answers = s.answers := rfl
@[simp] theorem selectChip_drawn : (s.selectChip).drawn = s.drawn := rfl
@[simp] theorem selectChip_offers : (s.selectChip).offers = s.offers := rfl

@[simp] theorem deselectChip_cfg : (s.deselectChip).cfg = s.cfg := rfl
@[simp] theorem deselectChip_chipState : (s.deselectChip).chipState = s.chipState := rfl
@[simp] theorem deselectChip_phase : (s.deselectChip).phase = s.phase := rfl
@[simp] theorem deselectChip_busy : (s.deselectChip).busy = s.busy := rfl
@[simp] theorem deselectChip_csOe : (s.deselectChip).csOe = s.csOe := rfl
@[simp] theorem deselectChip_csN : (s.deselectChip).csN = true := rfl
@[simp] theorem deselectChip_busOpen : (s.deselectChip).busOpen = s.busOpen := rfl
@[simp] theorem deselectChip_pollCount : (s.deselectChip).pollCount = s.pollCount := rfl
@[simp] theorem deselectChip_fb : (s.deselectChip).fb = s.fb := rfl
@[simp] theorem deselectChip_latch : (s.deselectChip).latch = s.latch := rfl
@[simp] theorem deselectChip_res : (s.deselectChip).res = s.res := rfl
@[simp] theorem deselectChip_trace : (s.deselectChip).trace = s.trace ++ [.csHigh] := rfl
@[simp] theorem deselectChip_cause : (s.deselectChip).cause = s.cause := rfl
@[simp] theorem deselectChip_enc : (s.deselectChip).enc = s.enc := rfl
@[simp] theorem deselectChip_answers : (s.deselectChip).answers = s.answers := rfl
@[simp] theorem deselectChip_drawn : (s.deselectChip).drawn = s.drawn := rfl
@[simp] theorem deselectChip_offers : (s.deselectChip).offers = s.offers := rfl

@[simp] theorem openBus_cfg : (s.openBus).cfg = s.cfg := rfl
@[simp] theorem openBus_chipState : (s.openBus).chipState = s.chipState := rfl
@[simp] theorem openBus_phase : (s.openBus).phase = s.phase := rfl
@[simp] theorem openBus_busy : (s.openBus).busy = s.busy := rfl
@[simp] theorem openBus_csOe : (s.openBus).csOe = s.csOe := rfl
@[simp] theorem openBus_csN : (s.openBus).csN = s.csN := rfl
@[simp] theorem openBus_busOpen : (s.openBus).busOpen = true := rfl
@[simp] theorem openBus_pollCount : (s.openBus).pollCount = s.pollCount := rfl
@[simp] theorem openBus_fb : (s.openBus).fb = s.fb := rfl
@[simp] theorem openBus_latch : (s.openBus).latch = s.latch := rfl
@[simp] theorem openBus_res : (s.openBus).res = s.res := rfl
@[simp] theorem openBus_trace : (s.openBus).trace = s.trace ++ [.busBegin] := rfl
@[simp] theorem openBus_cause : (s.openBus).cause = s.cause := rfl
@[simp] theorem openBus_enc : (s.openBus).enc = s.enc := rfl
@[simp] theorem openBus_answers : (s.openBus).answers = s.answers := rfl
@[simp] theorem openBus_drawn : (s.openBus).drawn = s.drawn := rfl
@[simp] theorem openBus_offers : (s.openBus).offers = s.offers := rfl

@[simp] theorem closeBus_cfg : (s.closeBus).cfg = s.cfg := rfl
@[simp] theorem closeBus_chipState : (s.closeBus).chipState = s.chipState := rfl
@[simp] theorem closeBus_phase : (s.closeBus).phase = s.phase := rfl
@[simp] theorem closeBus_busy : (s.closeBus).busy = s.busy := rfl
@[simp] theorem closeBus_csOe : (s.closeBus).csOe = s.csOe := rfl
@[simp] theorem closeBus_csN : (s.closeBus).csN = s.csN := rfl
@[simp] theorem closeBus_busOpen : (s.closeBus).busOpen = false := rfl
@[simp] theorem closeBus_pollCount : (s.closeBus).pollCount = s.pollCount := rfl
@[simp] theorem closeBus_fb : (s.closeBus).fb = s.fb := rfl
@[simp] theorem closeBus_latch : (s.closeBus).latch = s.latch := rfl
@[simp] theorem closeBus_res : (s.closeBus).res = s.res := rfl
@[simp] theorem closeBus_trace : (s.closeBus).trace = s.trace ++ [.busEnd] := rfl
@[simp] theorem closeBus_cause : (s.closeBus).cause = s.cause := rfl
@[simp] theorem closeBus_enc : (s.closeBus).enc = s.enc := rfl
@[simp] theorem closeBus_answers : (s.closeBus).answers = s.answers := rfl
@[simp] theorem closeBus_drawn : (s.closeBus).drawn = s.drawn := rfl
@[simp] theorem closeBus_offers : (s.closeBus).offers = s.offers := rfl

@[simp] theorem loadFrame_cfg (l : List Byte) : (s.loadFrame l).cfg = s.cfg := rfl
@[simp] theorem loadFrame_chipState (l : List Byte) : (s.loadFrame l).chipState = s.chipState := rfl
@[simp] theorem loadFrame_phase (l : List Byte) : (s.loadFrame l).phase = s.phase := rfl
@[simp] theorem loadFrame_busy (l : List Byte) : (s.loadFrame l).busy = s.busy := rfl
@[simp] theorem loadFrame_csOe (l : List Byte) : (s.loadFrame l).csOe = s.csOe := rfl
@[simp] theorem loadFrame_csN (l : List Byte) : (s.loadFrame l).csN = s.csN := rfl
@[simp] theorem loadFrame_busOpen (l : List Byte) : (s.loadFrame l).busOpen = s.busOpen := rfl
@[simp] theorem loadFrame_pollCount (l : List Byte) : (s.loadFrame l).pollCount = s.pollCount := rfl
@[simp] theorem loadFrame_fb (l : List Byte) : (s.loadFrame l).fb = s.fb.load l := rfl
@[simp] theorem loadFrame_latch (l : List Byte) : (s.loadFrame l).latch = s.latch := rfl
@[simp] theorem loadFrame_res (l : List Byte) : (s.loadFrame l).res = s.res := rfl
@[simp] theorem loadFrame_trace (l : List Byte) : (s.loadFrame l).trace = s.trace := rfl
@[simp] theorem loadFrame_cause (l : List Byte) : (s.loadFrame l).cause = s.cause := rfl
@[simp] theorem loadFrame_enc (l : List Byte) : (s.loadFrame l).enc = s.enc := rfl
@[simp] theorem loadFrame_answers (l : List Byte) : (s.loadFrame l).answers = s.answers := rfl
@[simp] theorem loadFrame_drawn (l : List Byte) : (s.loadFrame l).drawn = s.drawn := rfl
@[simp] theorem loadFrame_offers (l : List Byte) : (s.loadFrame l).offers = s.offers := rfl

@[simp] theorem start_cfg (l : Latches) : (s.start l).cfg = s.cfg := rfl
@[simp] theorem start_chipState (l : Latches) : (s.start l).chipState = s.chipState := rfl
@[simp] theorem start_phase (l : Latches) : (s.start l).phase = s.phase := rfl
@[simp] theorem start_busy (l : Latches) : (s.start l).busy = true := rfl
@[simp] theorem start_csOe (l : Latches) : (s.start l).csOe = s.csOe := rfl
@[simp] theorem start_csN (l : Latches) : (s.start l).csN = s.csN := rfl
@[simp] theorem start_busOpen (l : Latches) : (s.start l).busOpen = s.busOpen := rfl
@[simp] theorem start_pollCount (l : Latches) : (s.start l).pollCount = s.pollCount := rfl
@[simp] theorem start_fb (l : Latches) : (s.start l).fb = s.fb := rfl
@[simp] theorem start_latch (l : Latches) : (s.start l).latch = l := rfl
@[simp] theorem start_res (l : Latches) : (s.start l).res = s.res := rfl
@[simp] theorem start_trace (l : Latches) : (s.start l).trace = s.trace := rfl
@[simp] theorem start_cause (l : Latches) : (s.start l).cause = s.cause := rfl
@[simp] theorem start_enc (l : Latches) : (s.start l).enc = s.enc := rfl
@[simp] theorem start_answers (l : Latches) : (s.start l).answers = s.answers := rfl
@[simp] theorem start_drawn (l : Latches) : (s.start l).drawn = s.drawn := rfl
@[simp] theorem start_offers (l : Latches) : (s.start l).offers = s.offers := rfl

@[simp] theorem finish_cfg : (s.finish).cfg = s.cfg := rfl
@[simp] theorem finish_chipState : (s.finish).chipState = s.chipState := rfl
@[simp] theorem finish_phase : (s.finish).phase = .idle := rfl
@[simp] theorem finish_busy : (s.finish).busy = false := rfl
@[simp] theorem finish_csOe : (s.finish).csOe = s.csOe := rfl
@[simp] theorem finish_csN : (s.finish).csN = s.csN := rfl
@[simp] theorem finish_busOpen : (s.finish).busOpen = s.busOpen := rfl
@[simp] theorem finish_pollCount : (s.finish).pollCount = s.pollCount := rfl
@[simp] theorem finish_fb : (s.finish).fb = s.fb := rfl
@[simp] theorem finish_latch : (s.finish).latch = s.latch := rfl
@[simp] theorem finish_res : (s.finish).res = s.res := rfl
@[simp] theorem finish_trace : (s.finish).trace = s.trace := rfl
@[simp] theorem finish_cause : (s.finish).cause = s.cause := rfl
@[simp] theorem finish_enc : (s.finish).enc = s.enc := rfl
@[simp] theorem finish_answers : (s.finish).answers = s.answers := rfl
@[simp] theorem finish_drawn : (s.finish).drawn = s.drawn := rfl
@[simp] theorem finish_offers : (s.finish).offers = s.offers := rfl

@[simp] theorem failInit_cfg (c : Cause) : (s.failInit c).cfg = s.cfg := rfl
@[simp] theorem failInit_chipState (c : Cause) : (s.failInit c).chipState = .uninitialized := rfl
@[simp] theorem failInit_phase (c : Cause) : (s.failInit c).phase = s.phase := rfl
@[simp] theorem failInit_busy (c : Cause) : (s.failInit c).busy = s.busy := rfl
@[simp] theorem failInit_csOe (c : Cause) : (s.failInit c).csOe = s.csOe := rfl
@[simp] theorem failInit_csN (c : Cause) : (s.failInit c).csN = s.csN := rfl
@[simp] theorem failInit_busOpen (c : Cause) : (s.failInit c).busOpen = false := rfl
@[simp] theorem failInit_pollCount (c : Cause) : (s.failInit c).pollCount = s.pollCount := rfl
@[simp] theorem failInit_fb (c : Cause) : (s.failInit c).fb = s.fb := rfl
@[simp] theorem failInit_latch (c : Cause) : (s.failInit c).latch = s.latch := rfl
@[simp] theorem failInit_res (c : Cause) : (s.failInit c).res = { s.res with ok := false } := rfl
@[simp] theorem failInit_trace (c : Cause) : (s.failInit c).trace = s.trace ++ [.busEnd] := rfl
@[simp] theorem failInit_cause (c : Cause) : (s.failInit c).cause = some c := rfl
@[simp] theorem failInit_enc (c : Cause) : (s.failInit c).enc = s.enc := rfl
@[simp] theorem failInit_answers (c : Cause) : (s.failInit c).answers = s.answers := rfl
@[simp] theorem failInit_drawn (c : Cause) : (s.failInit c).drawn = s.drawn := rfl
@[simp] theorem failInit_offers (c : Cause) : (s.failInit c).offers = s.offers := rfl

@[simp] theorem returnCount_cfg (n : Half) : (s.returnCount n).cfg = s.cfg := rfl
@[simp] theorem returnCount_chipState (n : Half) : (s.returnCount n).chipState = s.chipState := rfl
@[simp] theorem returnCount_phase (n : Half) : (s.returnCount n).phase = s.phase := rfl
@[simp] theorem returnCount_busy (n : Half) : (s.returnCount n).busy = s.busy := rfl
@[simp] theorem returnCount_csOe (n : Half) : (s.returnCount n).csOe = s.csOe := rfl
@[simp] theorem returnCount_csN (n : Half) : (s.returnCount n).csN = s.csN := rfl
@[simp] theorem returnCount_busOpen (n : Half) : (s.returnCount n).busOpen = s.busOpen := rfl
@[simp] theorem returnCount_pollCount (n : Half) : (s.returnCount n).pollCount = s.pollCount := rfl
@[simp] theorem returnCount_fb (n : Half) : (s.returnCount n).fb = s.fb := rfl
@[simp] theorem returnCount_latch (n : Half) : (s.returnCount n).latch = s.latch := rfl
@[simp] theorem returnCount_res (n : Half) : (s.returnCount n).res = { s.res with count := n } := rfl
@[simp] theorem returnCount_trace (n : Half) : (s.returnCount n).trace = s.trace := rfl
@[simp] theorem returnCount_cause (n : Half) : (s.returnCount n).cause = s.cause := rfl
@[simp] theorem returnCount_enc (n : Half) : (s.returnCount n).enc = s.enc := rfl
@[simp] theorem returnCount_answers (n : Half) : (s.returnCount n).answers = s.answers := rfl
@[simp] theorem returnCount_drawn (n : Half) : (s.returnCount n).drawn = s.drawn := rfl
@[simp] theorem returnCount_offers (n : Half) : (s.returnCount n).offers = s.offers := rfl

@[simp] theorem returnData_cfg (d : List Byte) (n : Half) : (s.returnData d n).cfg = s.cfg := rfl
@[simp] theorem returnData_chipState (d : List Byte) (n : Half) : (s.returnData d n).chipState = s.chipState := rfl
@[simp] theorem returnData_phase (d : List Byte) (n : Half) : (s.returnData d n).phase = s.phase := rfl
@[simp] theorem returnData_busy (d : List Byte) (n : Half) : (s.returnData d n).busy = s.busy := rfl
@[simp] theorem returnData_csOe (d : List Byte) (n : Half) : (s.returnData d n).csOe = s.csOe := rfl
@[simp] theorem returnData_csN (d : List Byte) (n : Half) : (s.returnData d n).csN = s.csN := rfl
@[simp] theorem returnData_busOpen (d : List Byte) (n : Half) : (s.returnData d n).busOpen = s.busOpen := rfl
@[simp] theorem returnData_pollCount (d : List Byte) (n : Half) : (s.returnData d n).pollCount = s.pollCount := rfl
@[simp] theorem returnData_fb (d : List Byte) (n : Half) : (s.returnData d n).fb = s.fb := rfl
@[simp] theorem returnData_latch (d : List Byte) (n : Half) : (s.returnData d n).latch = s.latch := rfl
@[simp] theorem returnData_res (d : List Byte) (n : Half) : (s.returnData d n).res = { s.res with rbuf := d, count := n } := rfl
@[simp] theorem returnData_trace (d : List Byte) (n : Half) : (s.returnData d n).trace = s.trace := rfl
@[simp] theorem returnData_cause (d : List Byte) (n : Half) : (s.returnData d n).cause = s.cause := rfl
@[simp] theorem returnData_enc (d : List Byte) (n : Half) : (s.returnData d n).enc = s.enc := rfl
@[simp] theorem returnData_answers (d : List Byte) (n : Half) : (s.returnData d n).answers = s.answers := rfl
@[simp] theorem returnData_drawn (d : List Byte) (n : Half) : (s.returnData d n).drawn = s.drawn := rfl
@[simp] theorem returnData_offers (d : List Byte) (n : Half) : (s.returnData d n).offers = s.offers := rfl

@[simp] theorem returnValue_cfg (v : Half) : (s.returnValue v).cfg = s.cfg := rfl
@[simp] theorem returnValue_chipState (v : Half) : (s.returnValue v).chipState = s.chipState := rfl
@[simp] theorem returnValue_phase (v : Half) : (s.returnValue v).phase = s.phase := rfl
@[simp] theorem returnValue_busy (v : Half) : (s.returnValue v).busy = s.busy := rfl
@[simp] theorem returnValue_csOe (v : Half) : (s.returnValue v).csOe = s.csOe := rfl
@[simp] theorem returnValue_csN (v : Half) : (s.returnValue v).csN = s.csN := rfl
@[simp] theorem returnValue_busOpen (v : Half) : (s.returnValue v).busOpen = s.busOpen := rfl
@[simp] theorem returnValue_pollCount (v : Half) : (s.returnValue v).pollCount = s.pollCount := rfl
@[simp] theorem returnValue_fb (v : Half) : (s.returnValue v).fb = s.fb := rfl
@[simp] theorem returnValue_latch (v : Half) : (s.returnValue v).latch = s.latch := rfl
@[simp] theorem returnValue_res (v : Half) : (s.returnValue v).res = { s.res with val := v } := rfl
@[simp] theorem returnValue_trace (v : Half) : (s.returnValue v).trace = s.trace := rfl
@[simp] theorem returnValue_cause (v : Half) : (s.returnValue v).cause = s.cause := rfl
@[simp] theorem returnValue_enc (v : Half) : (s.returnValue v).enc = s.enc := rfl
@[simp] theorem returnValue_answers (v : Half) : (s.returnValue v).answers = s.answers := rfl
@[simp] theorem returnValue_drawn (v : Half) : (s.returnValue v).drawn = s.drawn := rfl
@[simp] theorem returnValue_offers (v : Half) : (s.returnValue v).offers = s.offers := rfl

@[simp] theorem returnVerdict_cfg (c : Option Cause) : (s.returnVerdict c).cfg = s.cfg := rfl
@[simp] theorem returnVerdict_chipState (c : Option Cause) : (s.returnVerdict c).chipState = s.chipState := rfl
@[simp] theorem returnVerdict_phase (c : Option Cause) : (s.returnVerdict c).phase = s.phase := rfl
@[simp] theorem returnVerdict_busy (c : Option Cause) : (s.returnVerdict c).busy = s.busy := rfl
@[simp] theorem returnVerdict_csOe (c : Option Cause) : (s.returnVerdict c).csOe = s.csOe := rfl
@[simp] theorem returnVerdict_csN (c : Option Cause) : (s.returnVerdict c).csN = s.csN := rfl
@[simp] theorem returnVerdict_busOpen (c : Option Cause) : (s.returnVerdict c).busOpen = s.busOpen := rfl
@[simp] theorem returnVerdict_pollCount (c : Option Cause) : (s.returnVerdict c).pollCount = s.pollCount := rfl
@[simp] theorem returnVerdict_fb (c : Option Cause) : (s.returnVerdict c).fb = s.fb := rfl
@[simp] theorem returnVerdict_latch (c : Option Cause) : (s.returnVerdict c).latch = s.latch := rfl
@[simp] theorem returnVerdict_res (c : Option Cause) : (s.returnVerdict c).res = { s.res with ok := c.isNone } := rfl
@[simp] theorem returnVerdict_trace (c : Option Cause) : (s.returnVerdict c).trace = s.trace := rfl
@[simp] theorem returnVerdict_cause (c : Option Cause) : (s.returnVerdict c).cause = c := rfl
@[simp] theorem returnVerdict_enc (c : Option Cause) : (s.returnVerdict c).enc = s.enc := rfl
@[simp] theorem returnVerdict_answers (c : Option Cause) : (s.returnVerdict c).answers = s.answers := rfl
@[simp] theorem returnVerdict_drawn (c : Option Cause) : (s.returnVerdict c).drawn = s.drawn := rfl
@[simp] theorem returnVerdict_offers (c : Option Cause) : (s.returnVerdict c).offers = s.offers := rfl

@[simp] theorem returnLink_cfg (l : LinkStatus) : (s.returnLink l).cfg = s.cfg := rfl
@[simp] theorem returnLink_chipState (l : LinkStatus) : (s.returnLink l).chipState = s.chipState := rfl
@[simp] theorem returnLink_phase (l : LinkStatus) : (s.returnLink l).phase = s.phase := rfl
@[simp] theorem returnLink_busy (l : LinkStatus) : (s.returnLink l).busy = s.busy := rfl
@[simp] theorem returnLink_csOe (l : LinkStatus) : (s.returnLink l).csOe = s.csOe := rfl
@[simp] theorem returnLink_csN (l : LinkStatus) : (s.returnLink l).csN = s.csN := rfl
@[simp] theorem returnLink_busOpen (l : LinkStatus) : (s.returnLink l).busOpen = s.busOpen := rfl
@[simp] theorem returnLink_pollCount (l : LinkStatus) : (s.returnLink l).pollCount = s.pollCount := rfl
@[simp] theorem returnLink_fb (l : LinkStatus) : (s.returnLink l).fb = s.fb := rfl
@[simp] theorem returnLink_latch (l : LinkStatus) : (s.returnLink l).latch = s.latch := rfl
@[simp] theorem returnLink_res (l : LinkStatus) : (s.returnLink l).res = { s.res with link := l } := rfl
@[simp] theorem returnLink_trace (l : LinkStatus) : (s.returnLink l).trace = s.trace := rfl
@[simp] theorem returnLink_cause (l : LinkStatus) : (s.returnLink l).cause = s.cause := rfl
@[simp] theorem returnLink_enc (l : LinkStatus) : (s.returnLink l).enc = s.enc := rfl
@[simp] theorem returnLink_answers (l : LinkStatus) : (s.returnLink l).answers = s.answers := rfl
@[simp] theorem returnLink_drawn (l : LinkStatus) : (s.returnLink l).drawn = s.drawn := rfl
@[simp] theorem returnLink_offers (l : LinkStatus) : (s.returnLink l).offers = s.offers := rfl

end Sys2Proof.Machine.State
end

