-- ==== Sys2Proof/Laws/Ops.lean ====
section
/-! SUPPORT. What each shared operation does, once: closed forms of the transactions, and the relation "only the bus
moved" that every part of the controller satisfies. -/

namespace Sys2Proof.Machine

/-! ### The environment's answers -/

theorem received_length (s : State) (i n : Nat) : (s.received i n).length = n := by
  simp [State.received]

theorem draws_eq_received (s : State) (n : Nat) : s.draws n = s.received s.drawn n := rfl

/-- What is received depends on the environment's answers alone. -/
theorem received_congr {s t : State} (h : t.answers = s.answers) : t.received = s.received := by
  funext i n; simp [State.received, State.oracle, h]

theorem oracle_congr {s t : State} (h : t.answers = s.answers) : t.oracle = s.oracle := by
  funext i; simp [State.oracle, h]

theorem received_one (s : State) (i : Nat) : s.received i 1 = [s.oracle i] := by
  simp [State.received, List.range_succ]

theorem received_two (s : State) (i : Nat) : s.received i 2 = [s.oracle i, s.oracle (i + 1)] := by
  simp [State.received, List.range_succ]

theorem received_add (s : State) (i m n : Nat) :
    s.received i (m + n) = s.received i m ++ s.received (i + m) n := by
  simp [State.received, List.range_add, Nat.add_assoc]

/-! ### The frame buffer -/

theorem FrameBuf.bytes_load_take (b : FrameBuf) {l : List Byte} (h : l.length ≤ 8) :
    (b.load l).bytes.take l.length = l := by
  match l, h with
  | [], _ => rfl
  | [_], _ => rfl
  | [_, _], _ => rfl
  | [_, _, _], _ => rfl
  | [_, _, _, _], _ => rfl
  | [_, _, _, _, _], _ => rfl
  | [_, _, _, _, _, _], _ => rfl
  | [_, _, _, _, _, _, _], _ => rfl
  | [_, _, _, _, _, _, _, _], _ => rfl
  | _ :: _ :: _ :: _ :: _ :: _ :: _ :: _ :: _ :: _, h => simp only [List.length_cons] at h; omega

@[simp] theorem Frame.bytes_length (f : Frame) : f.bytes.length = 3 := rfl

/-! ### Acceptance -/

/-- A host operation answers a next state exactly when it is accepted, and then runs. -/
theorem hostOp_next {s t : State} {p : Bool} {k : State → State} :
    hostOp s p k = .next t ↔
      s.cfg.legal = true ∧ s.busy = false ∧ (p = true → s.csOe = true) ∧ t = k s := by
  unfold hostOp
  cases s.cfg.legal <;> cases s.busy <;> cases p <;> cases s.csOe <;> simp [eq_comm]

/-- A micro-operation answers a next state exactly when it is accepted, and then runs. -/
theorem microOp_next {s t : State} {p : Bool} {k : State → State} :
    microOp s p k = .next t ↔ s.cfg.legal = true ∧ (p = true → s.csOe = true) ∧ t = k s := by
  unfold microOp
  cases s.cfg.legal <;> cases p <;> cases s.csOe <;> simp [eq_comm]

/-- The encoder's port answers exactly when the block has the row's tier, and only the port's levels change. -/
theorem encPort_next {s t : State} {b rw : Bool} {addr : Half} {sock : BitVec 3} {f : Frame} :
    encPort s b addr rw sock f = .next t ↔
      s.cfg.legal = true ∧ b = true ∧ t = { s with enc := ⟨addr, rw, sock, f⟩ } := by
  unfold encPort
  cases s.cfg.legal <;> cases b <;> simp [eq_comm]

/-! ### Only the bus moved -/

/-- From `s` to `t` the block emitted `ev`, received `n` bytes and left the chip deselected; beside that only the frame
buffer, the phase and the poll counter may differ. -/
def Moved (s t : State) (ev : List Event) (n : Nat) : Prop :=
  t = { s with
    csN := true, fb := t.fb, phase := t.phase, pollCount := t.pollCount
    drawn := s.drawn + n, trace := s.trace ++ ev }

theorem Moved.trans {s t u : State} {e1 e2 : List Event} {m n : Nat}
    (h1 : Moved s t e1 m) (h2 : Moved t u e2 n) : Moved s u (e1 ++ e2) (m + n) := by
  unfold Moved at *
  rw [h2, h1]
  simp [Nat.add_assoc]

theorem Moved.answers {s t : State} {e : List Event} {n : Nat} (h : Moved s t e n) : t.answers = s.answers := by
  rw [h]

theorem Moved.cfg {s t : State} {e : List Event} {n : Nat} (h : Moved s t e n) : t.cfg = s.cfg := by
  rw [h]

theorem Moved.drawn {s t : State} {e : List Event} {n : Nat} (h : Moved s t e n) : t.drawn = s.drawn + n := by
  rw [h]

theorem Moved.latch {s t : State} {e : List Event} {n : Nat} (h : Moved s t e n) : t.latch = s.latch := by
  rw [h]

theorem Moved.enter {s t : State} {p : Phase} {e : List Event} {n : Nat} (h : Moved (s.enter p) t e n) :
    Moved s t e n := h

/-- The written-out transactions depend on the configuration and the environment's answers alone. -/
theorem writeTrace_congr {s t : State} (h : t.answers = s.answers) : writeTrace t = writeTrace s := by
  funext f p i; simp [writeTrace, received_congr h]

theorem readTrace_congr {s t : State} (h : t.answers = s.answers) : readTrace t = readTrace s := by
  funext f n i; simp [readTrace, received_congr h]

theorem write8Trace_congr {s t : State} (h : t.answers = s.answers) (hc : t.cfg = s.cfg) :
    write8Trace t = write8Trace s := by
  funext a v i; simp [write8Trace, writeTrace_congr h, hc]

theorem read8Trace_congr {s t : State} (h : t.answers = s.answers) (hc : t.cfg = s.cfg) :
    read8Trace t = read8Trace s := by
  funext a i; simp [read8Trace, readTrace_congr h, hc]

/-! ### The transactions -/

/-- The write transaction in closed form (R153). -/
theorem busWrite_eq (s : State) (addr : Half) (p : List Byte) :
    s.busWrite addr p = { s with
      csN := true
      fb := s.fb.load ((s.frameOf addr true).bytes ++ if p.length ≤ 5 then p else [])
      drawn := s.drawn + (3 + p.length)
      trace := s.trace ++ writeTrace s (s.frameOf addr true) p s.drawn } := by
  unfold State.busWrite writeTrace coalesceMax
  by_cases h : p.length ≤ 5
  · have hl : ((s.frameOf addr true).bytes ++ p).length ≤ 8 := by simp; omega
    have ht := FrameBuf.bytes_load_take s.fb hl
    rw [show ((s.frameOf addr true).bytes ++ p).length = p.length + 3 by simp; omega] at ht
    simp [h, State.burstFrame, State.burst, State.loadFrame, State.selectChip, State.deselectChip, ht,
      State.draws, State.received, State.oracle]
  · have ht := FrameBuf.bytes_load_take s.fb (l := (s.frameOf addr true).bytes) (by simp)
    rw [Frame.bytes_length] at ht
    simp [h, State.burstFrame, State.burst, State.loadFrame, State.selectChip, State.deselectChip, ht,
      State.draws, State.received, State.oracle, Nat.add_assoc]

/-- The read transaction in closed form (R156, R163). -/
theorem busRead_eq (s : State) (addr : Half) (n : Nat) :
    s.busRead addr n =
      ({ s with
          csN := true
          fb := s.fb.load (s.frameOf addr false).bytes
          drawn := s.drawn + (3 + n)
          trace := s.trace ++ readTrace s (s.frameOf addr false) n s.drawn },
        s.received (s.drawn + 3) n) := by
  have ht := FrameBuf.bytes_load_take s.fb (l := (s.frameOf addr false).bytes) (by simp)
  rw [Frame.bytes_length] at ht
  unfold State.busRead State.busReadHeader readTrace
  by_cases h : n = 0
  · subst h
    simp [State.burstFrame, State.burst, State.loadFrame, State.selectChip, State.deselectChip, ht,
      State.draws, State.received, State.oracle]
  · simp [h, State.burstFrame, State.burst, State.loadFrame, State.selectChip, State.deselectChip, ht,
      State.draws, State.received, State.oracle, Nat.add_assoc]

theorem busWrite_moved (s : State) (addr : Half) (p : List Byte) :
    Moved s (s.busWrite addr p) (writeTrace s (s.frameOf addr true) p s.drawn) (3 + p.length) := by
  rw [busWrite_eq]; rfl

theorem busRead_moved (s : State) (addr : Half) (n : Nat) :
    Moved s (s.busRead addr n).1 (readTrace s (s.frameOf addr false) n s.drawn) (3 + n) := by
  rw [busRead_eq]; rfl

theorem write8_moved (s : State) (addr : Half) (v : Byte) :
    Moved s (s.write8 addr v) (write8Trace s addr v s.drawn) 4 := busWrite_moved s addr [v]

theorem read8_moved (s : State) (addr : Half) :
    Moved s (s.read8 addr).1 (read8Trace s addr s.drawn) 4 := busRead_moved s addr 1

/-- A one-byte read returns the last of its four bytes. -/
@[simp] theorem read8_byte (s : State) (addr : Half) : (s.read8 addr).2 = s.oracle (s.drawn + 3) := by
  simp [State.read8, busRead_eq, received_one]

@[simp] theorem write8_pollCount (s : State) (addr : Half) (v : Byte) :
    (s.write8 addr v).pollCount = s.pollCount := by simp [State.write8, busWrite_eq]

@[simp] theorem read8_pollCount (s : State) (addr : Half) :
    (s.read8 addr).1.pollCount = s.pollCount := by simp [State.read8, busRead_eq]

@[simp] theorem read8_phase (s : State) (addr : Half) :
    (s.read8 addr).1.phase = s.phase := by simp [State.read8, busRead_eq]

@[simp] theorem write8_phase (s : State) (addr : Half) (v : Byte) :
    (s.write8 addr v).phase = s.phase := by simp [State.write8, busWrite_eq]

end Sys2Proof.Machine
end

