-- ==== Sys2Proof/Laws/Bus.lean ====
section
/-! SUPPORT. What a stretch of the block's events shows at the pins and brings in, once for each transaction and composed:
`Ran s t ev n` is the inversion every operation on the bus satisfies. -/

namespace Sys2Proof.Machine

/-- A stretch of events that starts and ends with the chip deselected and the bus lock as it was (R115). -/
def Quiet (ev : List Event) : Prop :=
  ∀ b : Bool, ev.foldlM PortView.next ⟨.high, b⟩ = some ⟨.high, b⟩

theorem Quiet.nil : Quiet [] := fun _ => rfl

theorem Quiet.append {a b : List Event} (ha : Quiet a) (hb : Quiet b) : Quiet (a ++ b) := by
  intro v; rw [List.foldlM_append, ha v]; exact hb v

theorem Quiet.delay (u : Nat) : Quiet [.delay u] := fun _ => rfl

theorem quiet_writeTrace (s : State) (f : Frame) (p : List Byte) (i : Nat) : Quiet (writeTrace s f p i) := by
  intro b
  unfold writeTrace
  split
  · simp [PortView.next, received_length]
  · have h : 1 ≤ p.length := by omega
    simp [PortView.next, received_length, h]

theorem quiet_readTrace (s : State) (f : Frame) (n i : Nat) : Quiet (readTrace s f n i) := by
  intro b
  unfold readTrace
  split
  · simp [PortView.next, received_length]
  · have h : 1 ≤ n := by omega
    simp [PortView.next, received_length, h]

theorem portView_append_quiet {a b : List Event} {h : Bool} (ha : portView a = some ⟨.high, h⟩) (hb : Quiet b) :
    portView (a ++ b) = some ⟨.high, h⟩ := by
  unfold portView at *; rw [List.foldlM_append, ha]; exact hb h

/-- One event that the view admits whether the bus lock is held or not is no event of the lock, and moves chip select alike. -/
theorem PortView.next_no_bus {e : Event} {c : CsView} {v w : PortView} (hv : PortView.next ⟨c, true⟩ e = some v)
    (hw : PortView.next ⟨c, false⟩ e = some w) :
    e ≠ .busBegin ∧ e ≠ .busEnd ∧ ∃ d, v = ⟨d, true⟩ ∧ w = ⟨d, false⟩ := by
  cases e with
  | busBegin => simp [PortView.next] at hv
  | busEnd => simp [PortView.next] at hw
  | _ =>
    refine ⟨by simp, by simp, ?_⟩
    simp only [PortView.next] at hv hw
    repeat' split at hv
    all_goals simp_all
    all_goals exact ⟨_, hv.symm, hw.symm⟩

/-- A quiet stretch holds no event of the bus lock. -/
theorem Quiet.noBus {ev : List Event} (h : Quiet ev) : .busBegin ∉ ev ∧ .busEnd ∉ ev := by
  have general : ∀ (ev : List Event) (c : CsView) (v w : PortView), ev.foldlM PortView.next ⟨c, true⟩ = some v →
      ev.foldlM PortView.next ⟨c, false⟩ = some w → .busBegin ∉ ev ∧ .busEnd ∉ ev := by
    intro ev
    induction ev with
    | nil => simp
    | cons e ev ih =>
      intro c v w hv hw
      rw [List.foldlM_cons] at hv hw
      obtain ⟨v', hv', hv⟩ := Option.bind_eq_some_iff.mp hv
      obtain ⟨w', hw', hw⟩ := Option.bind_eq_some_iff.mp hw
      obtain ⟨n1, n2, d, rfl, rfl⟩ := PortView.next_no_bus hv' hw'
      obtain ⟨m1, m2⟩ := ih d v w hv hw
      exact ⟨by simp [n1.symm, m1], by simp [n2.symm, m2]⟩
  exact general ev .high _ _ (h true) (h false)

@[simp] theorem receivedBytes_append (a b : List Event) :
    receivedBytes (a ++ b) = receivedBytes a ++ receivedBytes b := by simp [receivedBytes]

@[simp] theorem sentBytes_append (a b : List Event) : sentBytes (a ++ b) = sentBytes a ++ sentBytes b := by
  simp [sentBytes]

@[simp] theorem ownEvents_append (a b : List Event) : ownEvents (a ++ b) = ownEvents a ++ ownEvents b := by
  simp [ownEvents]

theorem receivedBytes_writeTrace (s : State) (f : Frame) (p : List Byte) (i : Nat) :
    receivedBytes (writeTrace s f p i) = s.received i (3 + p.length) := by
  unfold writeTrace; split <;> simp [receivedBytes, received_add]

theorem receivedBytes_readTrace (s : State) (f : Frame) (n i : Nat) :
    receivedBytes (readTrace s f n i) = s.received i (3 + n) := by
  unfold readTrace; split
  · simp_all [receivedBytes]
  · simp [receivedBytes, received_add]

/-- From `s` to `t` only the bus moved, the events are quiet at the pins, and the bytes they bring in are the next `n` of
the environment's answers. -/
structure Ran (s t : State) (ev : List Event) (n : Nat) : Prop where
  moved : Moved s t ev n
  quiet : Quiet ev
  brought : receivedBytes ev = s.received s.drawn n

/-- A deselected block that does nothing. -/
theorem Ran.refl {s : State} (h : s.csN = true) : Ran s s [] 0 where
  moved := by cases s; simp_all [Moved]
  quiet := Quiet.nil
  brought := rfl

theorem Ran.trans {s t u : State} {e1 e2 : List Event} {m n : Nat} (h1 : Ran s t e1 m) (h2 : Ran t u e2 n) :
    Ran s u (e1 ++ e2) (m + n) where
  moved := h1.moved.trans h2.moved
  quiet := h1.quiet.append h2.quiet
  brought := by
    rw [receivedBytes_append, h1.brought, h2.brought, received_congr h1.moved.answers, h1.moved.drawn, ← received_add]

theorem Ran.enter {s t : State} {p : Phase} {e : List Event} {n : Nat} (h : Ran (s.enter p) t e n) : Ran s t e n :=
  ⟨h.moved.enter, h.quiet, h.brought⟩

/-- Neither the phase nor the poll counter is part of what moved. -/
theorem Ran.setCount {s t : State} {e : List Event} {n : Nat} (h : Ran s t e n) (c : BitVec 5) :
    Ran s { t with pollCount := c } e n where
  moved := by have := h.moved; unfold Moved at *; rw [this]
  quiet := h.quiet
  brought := h.brought

theorem busWrite_ran (s : State) (addr : Half) (p : List Byte) :
    Ran s (s.busWrite addr p) (writeTrace s (s.frameOf addr true) p s.drawn) (3 + p.length) :=
  ⟨busWrite_moved s addr p, quiet_writeTrace _ _ _ _, receivedBytes_writeTrace ..⟩

theorem busRead_ran (s : State) (addr : Half) (n : Nat) :
    Ran s (s.busRead addr n).1 (readTrace s (s.frameOf addr false) n s.drawn) (3 + n) :=
  ⟨busRead_moved s addr n, quiet_readTrace _ _ _ _, receivedBytes_readTrace ..⟩

theorem write8_ran (s : State) (addr : Half) (v : Byte) :
    Ran s (s.write8 addr v) (write8Trace s addr v s.drawn) 4 := busWrite_ran s addr [v]

theorem read8_ran (s : State) (addr : Half) : Ran s (s.read8 addr).1 (read8Trace s addr s.drawn) 4 :=
  busRead_ran s addr 1

theorem delay_ran {s : State} (h : s.csN = true) (u : Nat) : Ran s (s.delay u) [.delay u] 0 where
  moved := by simp [Moved, State.delay, State.emit, h]
  quiet := Quiet.delay u
  brought := rfl

end Sys2Proof.Machine
end

