-- ==== Sys2Proof/Laws/Controller.lean ====
section
/-! SUPPORT. The controller's parts, once each: what they can do on any answers (the inversions `…_ran`) and what they do
on the answers a rule names (the closed forms). -/

namespace Sys2Proof.Machine

theorem onSuccess_none {r : State × Option Cause} {k : State → State × Option Cause} (h : r.2 = none) :
    onSuccess r k = k r.1 := by simp [onSuccess, h]

theorem onSuccess_some {r : State × Option Cause} {k : State → State × Option Cause} {c : Cause} (h : r.2 = some c) :
    onSuccess r k = (r.1, some c) := by simp [onSuccess, h]

theorem csN_of_moved {s t : State} {e : List Event} {n : Nat} (h : Moved s t e n) : t.csN = true := by rw [h]

/-- One failed attempt of the soft-reset poll. -/
def missedPoll (s : State) : State :=
  { ((s.enter .srPoll).read8 s.cfg.mrAddr).1.delay 1 with pollCount := s.pollCount + 1 }

theorem missedPoll_ran (s : State) :
    Ran s (missedPoll s) (read8Trace s s.cfg.mrAddr s.drawn ++ [.delay 1]) 4 := by
  have h := (read8_ran (s.enter .srPoll) s.cfg.mrAddr)
  exact (h.enter.trans (delay_ran (csN_of_moved h.moved) 1)).setCount _

theorem srPoll_succ (n : Nat) (s : State) :
    srPoll (n + 1) s =
      if s.oracle (s.drawn + 3) = 0x00 then (((s.enter .srPoll).read8 s.cfg.mrAddr).1, none)
      else srPoll n (missedPoll s) := by
  simp only [srPoll, read8_byte, missedPoll, pollSpacing, read8_pollCount]
  rfl

/-- Whatever the bus answers, the soft-reset poll only moves the bus. -/
theorem srPoll_ran (n : Nat) (s : State) (hcs : s.csN = true) : ∃ ev m, Ran s (srPoll n s).1 ev m := by
  induction n generalizing s with
  | zero => exact ⟨[], 0, Ran.refl hcs⟩
  | succ n ih =>
    rw [srPoll_succ]
    split
    · exact ⟨_, _, (read8_ran (s.enter .srPoll) _).enter⟩
    · have h := missedPoll_ran s
      obtain ⟨ev, m, h'⟩ := ih (missedPoll s) (csN_of_moved h.moved)
      exact ⟨_, _, h.trans h'⟩

theorem softReset_ran (s : State) : ∃ ev m, Ran s (softReset s).1 ev m := by
  have h := ((write8_ran (s.enter .srWrite) s.cfg.mrAddr s.cfg.rstCmd).enter).setCount 0
  obtain ⟨ev, m, h'⟩ := srPoll_ran softResetAttempts _ (csN_of_moved h.moved)
  exact ⟨_, _, h.trans h'⟩

theorem onSuccess_ran {s : State} {r : State × Option Cause} {k : State → State × Option Cause}
    (h : ∃ ev m, Ran s r.1 ev m) (hk : ∀ t, ∃ ev m, Ran t (k t).1 ev m) : ∃ ev m, Ran s (onSuccess r k).1 ev m := by
  obtain ⟨ev, m, h⟩ := h
  unfold onSuccess
  split
  · obtain ⟨ev', m', h'⟩ := hk r.1
    exact ⟨_, _, h.trans h'⟩
  · exact ⟨_, _, h⟩

theorem sentinelCheck_ran (p : Phase) (x : Byte) (c : Cause) (s : State) :
    Ran s (sentinelCheck p x c s).1 (sentinelTrace s x s.drawn) 8 := by
  have h1 := write8_ran (s.enter p) s.cfg.mrAddr x
  have h2 := read8_ran ((s.enter p).write8 s.cfg.mrAddr x) s.cfg.mrAddr
  have h := h1.enter.trans h2
  rw [read8Trace_congr (h1.enter.moved.answers) (h1.enter.moved.cfg), h1.enter.moved.drawn] at h
  exact h

theorem vfVersion_ran (s : State) : Ran s (vfVersion s).1 (read8Trace s s.cfg.versionAddr s.drawn) 4 :=
  (read8_ran (s.enter .vfVersion) s.cfg.versionAddr).enter

theorem vfS3_ran (s : State) : ∃ ev m, Ran s (vfS3 s).1 ev m :=
  onSuccess_ran ⟨_, _, sentinelCheck_ran ..⟩ fun t => ⟨_, _, vfVersion_ran t⟩

theorem vfS2_ran (s : State) : ∃ ev m, Ran s (vfS2 s).1 ev m :=
  onSuccess_ran ⟨_, _, sentinelCheck_ran ..⟩ vfS3_ran

theorem vfS1_ran (s : State) : ∃ ev m, Ran s (vfS1 s).1 ev m :=
  onSuccess_ran ⟨_, _, sentinelCheck_ran ..⟩ vfS2_ran

/-- Whatever the bus answers, VERIFY only moves the bus. -/
theorem verify_ran (s : State) : ∃ ev m, Ran s (verify s).1 ev m :=
  onSuccess_ran ((softReset_ran (s.enter .vfReset)).imp fun _ ⟨m, h⟩ => ⟨m, h.enter⟩) vfS1_ran

theorem writeSizes_ran (s : State) (i : Nat) :
    Ran s (writeSizes s i)
      (write8Trace s (s.cfg.snAddr (BitVec.ofNat 3 i) s.cfg.snRxSizeOff) (s.cfg.sizeCode i) s.drawn
        ++ write8Trace s (s.cfg.snAddr (BitVec.ofNat 3 i) s.cfg.snTxSizeOff) (s.cfg.sizeCode i) (s.drawn + 4)) 8 := by
  have h1 := write8_ran s (s.cfg.snAddr (BitVec.ofNat 3 i) s.cfg.snRxSizeOff) (s.cfg.sizeCode i)
  have h2 := write8_ran (s.write8 (s.cfg.snAddr (BitVec.ofNat 3 i) s.cfg.snRxSizeOff) (s.cfg.sizeCode i))
    (s.cfg.snAddr (BitVec.ofNat 3 i) s.cfg.snTxSizeOff) (s.cfg.sizeCode i)
  rw [write8Trace_congr h1.moved.answers h1.moved.cfg, h1.moved.drawn] at h2
  exact h1.trans h2

/-- The loop of PARTITION over any list of sockets. -/
theorem foldl_writeSizes_ran (l : List Nat) (s : State) (hcs : s.csN = true) :
    ∃ ev, Ran s (l.foldl writeSizes s) ev (8 * l.length) := by
  induction l generalizing s with
  | nil => exact ⟨[], Ran.refl hcs⟩
  | cons i l ih =>
    have h := writeSizes_ran s i
    obtain ⟨ev, h'⟩ := ih (writeSizes s i) (csN_of_moved h.moved)
    have := h.trans h'
    exact ⟨_, by simpa [Nat.mul_add, Nat.add_comm] using this⟩

/-- PARTITION only moves the bus. -/
theorem partition_ran (s : State) (hcs : s.csN = true) : ∃ ev m, Ran s (partition s) ev m := by
  unfold partition
  split
  · obtain ⟨ev, h⟩ := foldl_writeSizes_ran (List.range chipSockets) s hcs
    exact ⟨_, _, h⟩
  · exact ⟨[], 0, Ran.refl hcs⟩

/-! ### Closed forms on named answers -/

theorem failedPolls_congr {s t : State} (h : t.answers = s.answers) (hc : t.cfg = s.cfg) :
    failedPolls t = failedPolls s := by
  funext i k; simp [failedPolls, read8Trace_congr h hc, hc]

/-- The first failed poll, then the others from four bytes on. -/
theorem failedPolls_succ (s : State) (i k : Nat) :
    failedPolls s i (k + 1) = read8Trace s s.cfg.mrAddr (i + 4) ++ [.delay 1] ++ failedPolls s (i + 4) k := by
  simp only [failedPolls, List.range_succ_eq_map, List.flatMap_cons, List.flatMap_map]
  congr 1
  congr 1
  funext j
  congr 2
  omega

/-- The poll clears at its `k`-th read (R183). -/
theorem srPoll_clears (n k i : Nat) (s : State) (hd : s.drawn = i + 4) (hk : k < n)
    (hne : ∀ j < k, s.pollAnswer i j ≠ 0x00) (h0 : s.pollAnswer i k = 0x00) :
    (srPoll n s).2 = none
      ∧ Ran s (srPoll n s).1 (failedPolls s i k ++ read8Trace s s.cfg.mrAddr (i + 4 + 4 * k)) (4 * k + 4)
      ∧ (srPoll n s).1.pollCount = s.pollCount + BitVec.ofNat 5 k := by
  induction k generalizing n i s with
  | zero =>
    obtain ⟨n, rfl⟩ : ∃ m, n = m + 1 := ⟨n - 1, by omega⟩
    have h0' : s.oracle (s.drawn + 3) = 0x00 := by rw [hd]; simpa [State.pollAnswer] using h0
    rw [srPoll_succ, if_pos h0']
    refine ⟨rfl, ?_, by simp⟩
    have := (read8_ran (s.enter .srPoll) s.cfg.mrAddr).enter
    simpa [failedPolls, hd, read8Trace_congr (s := s) (t := s.enter .srPoll) rfl rfl] using this
  | succ k ih =>
    obtain ⟨n, rfl⟩ : ∃ m, n = m + 1 := ⟨n - 1, by omega⟩
    have hm := missedPoll_ran s
    have h1 : s.oracle (s.drawn + 3) ≠ 0x00 := by
      have := hne 0 (by omega); rw [hd]; simpa [State.pollAnswer] using this
    have hor : ∀ j, (missedPoll s).pollAnswer (i + 4) j = s.pollAnswer i (j + 1) := by
      intro j; unfold State.pollAnswer; rw [oracle_congr hm.moved.answers]; congr 1; omega
    have hih := ih n (i + 4) (missedPoll s) (by rw [hm.moved.drawn, hd]) (by omega)
      (fun j hj => by rw [hor]; exact hne (j + 1) (by omega)) (by rw [hor]; exact h0)
    rw [srPoll_succ, if_neg h1]
    refine ⟨hih.1, ?_, ?_⟩
    · have := hm.trans hih.2.1
      rw [failedPolls_congr hm.moved.answers hm.moved.cfg, read8Trace_congr hm.moved.answers hm.moved.cfg,
        hm.moved.cfg] at this
      rw [failedPolls_succ]
      have e1 : i + 4 + 4 + 4 * k = i + 4 + 4 * (k + 1) := by omega
      have e2 : 4 + (4 * k + 4) = 4 * (k + 1) + 4 := by omega
      rw [e1, e2] at this
      simpa [hd, List.append_assoc] using this
    · rw [hih.2.2]
      show s.pollCount + 1 + BitVec.ofNat 5 k = _
      rw [BitVec.add_assoc]; congr 1; apply BitVec.eq_of_toNat_eq; simp; omega

/-- The poll gives up after all its attempts (R183). -/
theorem srPoll_times_out (n i : Nat) (s : State) (hd : s.drawn = i + 4) (hcs : s.csN = true)
    (hne : ∀ j < n, s.pollAnswer i j ≠ 0x00) :
    (srPoll n s).2 = some .resetTimeout
      ∧ Ran s (srPoll n s).1 (failedPolls s i n) (4 * n)
      ∧ (srPoll n s).1.pollCount = s.pollCount + BitVec.ofNat 5 n := by
  induction n generalizing i s with
  | zero => exact ⟨rfl, Ran.refl hcs, by simp [srPoll]⟩
  | succ n ih =>
    have hm := missedPoll_ran s
    have h1 : s.oracle (s.drawn + 3) ≠ 0x00 := by
      have := hne 0 (by omega); rw [hd]; simpa [State.pollAnswer] using this
    have hor : ∀ j, (missedPoll s).pollAnswer (i + 4) j = s.pollAnswer i (j + 1) := by
      intro j; unfold State.pollAnswer; rw [oracle_congr hm.moved.answers]; congr 1; omega
    have hih := ih (i + 4) (missedPoll s) (by rw [hm.moved.drawn, hd]) (csN_of_moved hm.moved)
      (fun j hj => by rw [hor]; exact hne (j + 1) (by omega))
    rw [srPoll_succ, if_neg h1]
    refine ⟨hih.1, ?_, ?_⟩
    · have := hm.trans hih.2.1
      rw [failedPolls_congr hm.moved.answers hm.moved.cfg] at this
      rw [failedPolls_succ]
      have e2 : 4 + 4 * n = 4 * (n + 1) := by omega
      rw [e2] at this
      simpa [hd, List.append_assoc] using this
    · rw [hih.2.2]
      show s.pollCount + 1 + BitVec.ofNat 5 n = _
      rw [BitVec.add_assoc]; congr 1; apply BitVec.eq_of_toNat_eq; simp; omega

/-- The state in which the soft reset starts to poll. -/
def afterResetCommand (s : State) : State :=
  { (s.enter .srWrite).write8 s.cfg.mrAddr s.cfg.rstCmd with pollCount := 0 }

theorem afterResetCommand_ran (s : State) :
    Ran s (afterResetCommand s) (write8Trace s s.cfg.mrAddr s.cfg.rstCmd s.drawn) 4 :=
  ((write8_ran (s.enter .srWrite) s.cfg.mrAddr s.cfg.rstCmd).enter).setCount 0

theorem pollAnswer_congr {s t : State} (h : t.answers = s.answers) : t.pollAnswer = s.pollAnswer := by
  funext i k; simp [State.pollAnswer, oracle_congr h]

/-- SOFTRESET that clears at its `k`-th read, counted from 0 (R183). -/
theorem softReset_clears {s : State} {k : Nat} (h : s.softResetClears s.drawn k) :
    (softReset s).2 = none
      ∧ Ran s (softReset s).1 (softResetTrace s s.drawn k) (4 * k + 8)
      ∧ (softReset s).1.pollCount = BitVec.ofNat 5 k := by
  have hr := afterResetCommand_ran s
  obtain ⟨h1, h2, h3⟩ := srPoll_clears softResetAttempts k s.drawn (afterResetCommand s) hr.moved.drawn h.1
    (fun j hj => by rw [pollAnswer_congr hr.moved.answers]; exact h.2.1 j hj)
    (by rw [pollAnswer_congr hr.moved.answers]; exact h.2.2)
  refine ⟨h1, ?_, by rw [show (softReset s) = srPoll softResetAttempts (afterResetCommand s) from rfl, h3]; simp [afterResetCommand]⟩
  have := hr.trans h2
  rw [failedPolls_congr hr.moved.answers hr.moved.cfg, read8Trace_congr hr.moved.answers hr.moved.cfg, hr.moved.cfg,
    show 4 + (4 * k + 4) = 4 * k + 8 by omega] at this
  rw [softResetTrace, List.append_assoc]
  exact this

/-- SOFTRESET that never reads zero (R183). -/
theorem softReset_times_out {s : State} (h : s.softResetFails s.drawn) :
    (softReset s).2 = some .resetTimeout
      ∧ Ran s (softReset s).1 (timeoutTrace s s.drawn) 84
      ∧ (softReset s).1.pollCount = 20 := by
  have hr := afterResetCommand_ran s
  obtain ⟨h1, h2, h3⟩ := srPoll_times_out softResetAttempts s.drawn (afterResetCommand s) hr.moved.drawn
    (csN_of_moved hr.moved) (fun j hj => by rw [pollAnswer_congr hr.moved.answers]; exact h j hj)
  refine ⟨h1, ?_, by rw [show (softReset s) = srPoll softResetAttempts (afterResetCommand s) from rfl, h3]; rfl⟩
  have := hr.trans h2
  rw [failedPolls_congr hr.moved.answers hr.moved.cfg] at this
  exact this

/-- A sentinel check compares the last byte of its read-back (R184). -/
@[simp] theorem sentinelCheck_verdict (p : Phase) (x : Byte) (c : Cause) (s : State) :
    (sentinelCheck p x c s).2 = if s.oracle (s.drawn + 7) = x then none else some c := by
  have h1 := (write8_ran (s.enter p) s.cfg.mrAddr x).enter
  show (if (((s.enter p).write8 s.cfg.mrAddr x).read8 s.cfg.mrAddr).2 = x then none else some c) = _
  rw [read8_byte, oracle_congr h1.moved.answers, h1.moved.drawn]

/-- The version check compares the last byte of its read (R184). -/
@[simp] theorem vfVersion_verdict (s : State) :
    (vfVersion s).2 = if s.oracle (s.drawn + 3) = s.cfg.versionConst then none else some .version := by
  simp [vfVersion]; rfl

/-- PARTITION moves neither the phase nor the poll counter. -/
theorem partition_still (s : State) : (partition s).phase = s.phase ∧ (partition s).pollCount = s.pollCount := by
  have loop : ∀ (l : List Nat) (s : State),
      (l.foldl writeSizes s).phase = s.phase ∧ (l.foldl writeSizes s).pollCount = s.pollCount := by
    intro l
    induction l with
    | nil => exact fun s => ⟨rfl, rfl⟩
    | cons i l ih => intro s; simp [ih, writeSizes]
  unfold partition
  split
  · exact loop _ s
  · exact ⟨rfl, rfl⟩

/-- PARTITION in large-buffer mode writes exactly the sixteen size registers (R185). -/
theorem partition_large {s : State} (h : s.cfg.largeBuffers = true) :
    Ran s (partition s) (partitionTrace s s.drawn) 64 := by
  unfold partition
  rw [if_pos h]
  have loop : ∀ n, Ran s ((List.range (n + 1)).foldl writeSizes s)
      ((List.range (n + 1)).flatMap fun k =>
        write8Trace s (s.cfg.snAddr (BitVec.ofNat 3 k) s.cfg.snRxSizeOff) (s.cfg.sizeCode k) (s.drawn + 8 * k)
          ++ write8Trace s (s.cfg.snAddr (BitVec.ofNat 3 k) s.cfg.snTxSizeOff) (s.cfg.sizeCode k) (s.drawn + 8 * k + 4))
      (8 * (n + 1)) := by
    intro n
    induction n with
    | zero => simpa [List.range_succ] using writeSizes_ran s 0
    | succ n ih =>
      rw [List.range_succ, List.foldl_append, List.flatMap_append]
      have h2 := writeSizes_ran (List.foldl writeSizes s (List.range (n + 1))) (n + 1)
      rw [write8Trace_congr ih.moved.answers ih.moved.cfg, ih.moved.cfg, ih.moved.drawn] at h2
      simpa [Nat.mul_add, Nat.add_assoc] using ih.trans h2
  exact loop 7

end Sys2Proof.Machine
end

