-- ==== Sys2Proof/Laws/Encoder.lean ====
section
/-! SUPPORT. The encoder and the decoder, once: the regions as ranges, the frame and its 24-bit number, what the decoder can
give from each port. -/

namespace Sys2Proof

theorem region_eq_common (a : Half) : region a = .common ↔ a < 0x0100 := by
  unfold region; repeat' split
  all_goals simp
  all_goals bv_omega

theorem region_eq_sockReg (a : Half) : region a = .sockReg ↔ 0x0100 ≤ a ∧ a < 0x8000 := by
  unfold region; repeat' split
  all_goals simp
  all_goals bv_omega

theorem region_eq_txBuf (a : Half) : region a = .txBuf ↔ 0x8000 ≤ a ∧ a < 0xC000 := by
  unfold region; repeat' split
  all_goals simp
  all_goals bv_omega

theorem region_eq_rxBuf (a : Half) : region a = .rxBuf ↔ 0xC000 ≤ a := by
  unfold region; repeat' split
  all_goals simp
  all_goals bv_omega

theorem toNat_append3 (a b c : Byte) : (a ++ b ++ c : BitVec 24).toNat = a.toNat * 65536 + b.toNat * 256 + c.toNat := by
  have h : (a ++ b ++ c : BitVec (8 + 8 + 8)).toNat = (a.toNat <<< 8 + b.toNat) <<< 8 + c.toNat := by
    rw [BitVec.toNat_append, BitVec.toNat_append, ← Nat.shiftLeft_add_eq_or_of_lt (by omega),
      ← Nat.shiftLeft_add_eq_or_of_lt (by omega)]
  refine h.trans ?_
  rw [Nat.shiftLeft_eq, Nat.shiftLeft_eq]; omega

@[simp] theorem Frame.ofWord_word (f : Frame) : Frame.ofWord f.word = f := by
  obtain ⟨a, b, c⟩ := f
  simp only [Frame.word, Frame.ofWord, Frame.mk.injEq]
  refine ⟨?_, ?_, ?_⟩ <;> apply BitVec.eq_of_toNat_eq <;>
    rw [BitVec.extractLsb'_toNat, toNat_append3, Nat.shiftRight_eq_div_pow] <;> omega

/-- The base address of the socket registers of a legal configuration (R9, 92_eei_decisions.md). -/
theorem Config.legal_sockRegBase {c : Config} (h : c.legal = true) :
    c.sockRegBase &&& 0x07FF = 0x0000 ∧ 0x0800 ≤ c.sockRegBase ∧ c.sockRegBase ≤ 0x7800 := by
  simp [Config.legal] at h; simp_all

/-- The one legal stride of the socket-register blocks (R9, R53). -/
theorem Config.legal_sockRegStride {c : Config} (h : c.legal = true) : c.sockRegStride = 0x0100 := by
  simp [Config.legal] at h; simp_all

/-- `SNADDR` as R136 writes it out, of a legal configuration. -/
theorem Config.legal_snAddr {c : Config} (h : c.legal = true) (s : BitVec 3) (off : Byte) :
    c.snAddr s off = c.sockRegBase + s.setWidth 16 * 0x0100 + off.setWidth 16 := by
  rw [Config.snAddr, Config.legal_sockRegStride h]

/-- R88's offset inside the socket's buffer is the address modulo the buffer's size. -/
theorem Frame.bufferOffset_toNat (t : Tier) (f : Frame) :
    (f.bufferOffset t).toNat = f.fields.offset.toNat % t.ssize.toNat := by
  cases t <;> simp only [Frame.bufferOffset, BitVec.toNat_and]
  · exact Nat.and_two_pow_sub_one_eq_mod _ 11
  · exact Nat.and_two_pow_sub_one_eq_mod _ 12
  · exact Nat.and_two_pow_sub_one_eq_mod _ 13
  · exact Nat.and_two_pow_sub_one_eq_mod _ 14

theorem Config.legal_maxSockNum {c : Config} (h : c.legal = true) :
    c.maxSockNum = 1 ∨ c.maxSockNum = 2 ∨ c.maxSockNum = 4 ∨ c.maxSockNum = 8 := by
  simp [Config.legal] at h; omega

/-- The encoder's rows are frames. -/
@[simp] theorem encInstr_format (t : Tier) (rw : Bool) (a : Half) (sock : BitVec 3) :
    (encInstr t rw a sock).format = .frame := by
  unfold encInstr; split <;> rfl

/-- The row that an address, a direction and the block's tier select is a row of the block. -/
theorem encInstr_wf (c : Config) (rw : Bool) (a : Half) (sock : BitVec 3) : (encInstr c.tier rw a sock).wf c = true := by
  unfold encInstr; split <;> simp_all [Instr.wf]

theorem decodeHost_format {l : Latches} {i : Instr} (h : decodeHost l = .ok i) : i.format = .hostop := by
  unfold decodeHost at h
  split at h
  case h_1 => split at h <;> cases h; rfl
  all_goals (cases h; rfl)

/-- What the decoder gives has the format of the port it came from. -/
theorem decode_format {c : Config} {w : PortWord} {i : Instr} (h : decode c w = .ok i) : i.format = w.format := by
  cases w with
  | host l => exact decodeHost_format h
  | enc rw a sock => cases h; exact encInstr_format ..
  | frame w =>
    simp only [decode, decodeFrame] at h
    split at h
    · cases h; exact encInstr_format ..
    · cases h
  | uop l =>
    simp only [decode, decodeUop] at h
    split at h <;> cases h <;> rfl

end Sys2Proof
end

