-- ==== Sys2Proof/Laws/Verify.lean ====
section
/-! SUPPORT. VERIFY on named answers: on those that pass every check and on those that fail one, its verdict, its trace and
its poll counter in the answers of the state it starts in. -/

namespace Sys2Proof.Machine

theorem sentinelTrace_congr {s t : State} (h : t.answers = s.answers) (hc : t.cfg = s.cfg) :
    sentinelTrace t = sentinelTrace s := by
  funext p i; simp [sentinelTrace, write8Trace_congr h hc, read8Trace_congr h hc, hc]

@[simp] theorem sentinelCheck_pollCount (p : Phase) (x : Byte) (c : Cause) (s : State) :
    (sentinelCheck p x c s).1.pollCount = s.pollCount := by simp [sentinelCheck]

@[simp] theorem vfVersion_pollCount (s : State) : (vfVersion s).1.pollCount = s.pollCount := by simp [vfVersion]

/-- A stretch that has run from `s` to `t`, gone on by a sentinel check. -/
theorem Ran.thenSentinel {s t : State} {ev : List Event} {n : Nat} (h : Ran s t ev n) (p : Phase) (x : Byte) (c : Cause) :
    Ran s (sentinelCheck p x c t).1 (ev ++ sentinelTrace s x (s.drawn + n)) (n + 8) := by
  have k := sentinelCheck_ran p x c t
  rw [sentinelTrace_congr h.moved.answers h.moved.cfg, h.moved.drawn] at k
  exact h.trans k

/-- The same for the version check. -/
theorem Ran.thenVersion {s t : State} {ev : List Event} {n : Nat} (h : Ran s t ev n) :
    Ran s (vfVersion t).1 (ev ++ read8Trace s s.cfg.versionAddr (s.drawn + n)) (n + 4) := by
  have k := vfVersion_ran t
  rw [read8Trace_congr h.moved.answers h.moved.cfg, h.moved.drawn, h.moved.cfg] at k
  exact h.trans k

/-- The verdict of a sentinel check after a stretch, in the answers of its start. -/
theorem Ran.sentinelVerdict {s t : State} {ev : List Event} {n : Nat} (h : Ran s t ev n) (p : Phase) (x : Byte) (c : Cause) :
    (sentinelCheck p x c t).2 = if s.oracle (s.drawn + n + 7) = x then none else some c := by
  rw [sentinelCheck_verdict, oracle_congr h.moved.answers, h.moved.drawn]

theorem Ran.versionVerdict {s t : State} {ev : List Event} {n : Nat} (h : Ran s t ev n) :
    (vfVersion t).2 = if s.oracle (s.drawn + n + 3) = s.cfg.versionConst then none else some .version := by
  rw [vfVersion_verdict, oracle_congr h.moved.answers, h.moved.drawn, h.moved.cfg]

theorem sentinelTraces_succ (s : State) (n i : Nat) :
    sentinelTraces s (n + 1) i =
      sentinelTraces s n i
        ++ sentinelTrace s ([s.cfg.sentinel1, s.cfg.sentinel2, s.cfg.sentinel3].getD n 0x00) (i + 8 * n) := by
  simp [sentinelTraces, List.range_succ]

/-- How a VERIFY of state `s` can end: in state `r.1` after events `ev` that bring in `n` bytes, the poll counter at `p`,
with the verdict of `r`. -/
structure Verified (s : State) (r : State × Option Cause) (ev : List Event) (n : Nat) (p : BitVec 5) (v : Option Cause) :
    Prop where
  verdict : r.2 = v
  ran : Ran s r.1 ev n
  pollCount : r.1.pollCount = p

/-- VERIFY whose soft reset clears, up to the first sentinel. -/
theorem verify_cleared {s : State} {k : Nat} (h : s.softResetClears s.drawn k) :
    ∃ t, verify s = vfS1 t ∧ Ran s t (softResetTrace s s.drawn k) (4 * k + 8) ∧ t.pollCount = BitVec.ofNat 5 k := by
  obtain ⟨h1, h2, h3⟩ := softReset_clears (s := s.enter .vfReset) h
  exact ⟨_, onSuccess_none h1, h2.enter, h3⟩

/-- VERIFY on answers that pass every check (R184). -/
theorem verify_passes {s : State} {k : Nat} (h : s.verifies s.drawn k) :
    Verified s (verify s) (fullVerifyTrace s s.drawn k) (4 * k + 36) (BitVec.ofNat 5 k) none := by
  obtain ⟨h0, h1, h2, h3, h4⟩ := h
  obtain ⟨t, hv, ht, hp⟩ := verify_cleared h0
  have r1 := ht.thenSentinel .vfS1 s.cfg.sentinel1 .sentinel1
  have r2 := r1.thenSentinel .vfS2 s.cfg.sentinel2 .sentinel2
  have r3 := r2.thenSentinel .vfS3 s.cfg.sentinel3 .sentinel3
  have r4 := r3.thenVersion
  have v1 := ht.sentinelVerdict .vfS1 s.cfg.sentinel1 .sentinel1
  have v2 := r1.sentinelVerdict .vfS2 s.cfg.sentinel2 .sentinel2
  have v3 := r2.sentinelVerdict .vfS3 s.cfg.sentinel3 .sentinel3
  have v4 := r3.versionVerdict
  rw [if_pos (by rw [← h1]; congr 1)] at v1
  rw [if_pos (by rw [← h2]; congr 1)] at v2
  rw [if_pos (by rw [← h3]; congr 1)] at v3
  rw [if_pos (by rw [← h4]; congr 1)] at v4
  have e1 := ht.moved.cfg
  have e2 := r1.moved.cfg
  have e3 := r2.moved.cfg
  have : verify s = vfVersion (sentinelCheck .vfS3 s.cfg.sentinel3 .sentinel3
      (sentinelCheck .vfS2 s.cfg.sentinel2 .sentinel2 (sentinelCheck .vfS1 s.cfg.sentinel1 .sentinel1 t).1).1).1 := by
    rw [hv, vfS1, e1, onSuccess_none v1, vfS2, e2, onSuccess_none v2, vfS3, e3, onSuccess_none v3]
  rw [this]
  refine ⟨v4, ?_, by simp [hp]⟩
  simpa [fullVerifyTrace, sentinelTraces, List.range_succ, Nat.add_assoc, List.append_assoc] using r4

/-- VERIFY on answers that fail a check, the first such one (R184, R241, R244, R246). -/
theorem verify_fails {s : State} {c : Cause} {ev : List Event} {n : Nat} {p : BitVec 5} (h : s.failsAs s.drawn c ev n p) :
    Verified s (verify s) ev n p (some c) := by
  cases c with
  | resetTimeout =>
    obtain ⟨h0, rfl, rfl, rfl⟩ := h
    obtain ⟨h1, h2, h3⟩ := softReset_times_out (s := s.enter .vfReset) h0
    have : verify s = ((softReset (s.enter .vfReset)).1, some .resetTimeout) := onSuccess_some h1
    rw [this]
    exact ⟨rfl, h2.enter, h3⟩
  | sentinel1 =>
    obtain ⟨k, h0, h1, rfl, rfl, rfl⟩ := h
    obtain ⟨t, hv, ht, hp⟩ := verify_cleared h0
    have r1 := ht.thenSentinel .vfS1 s.cfg.sentinel1 .sentinel1
    have v1 := ht.sentinelVerdict .vfS1 s.cfg.sentinel1 .sentinel1
    rw [if_neg (by intro e; apply h1; rw [← e]; congr 1)] at v1
    have e1 := ht.moved.cfg
    rw [hv, vfS1, e1, onSuccess_some v1]
    exact ⟨rfl, by simpa [sentinelTraces, List.range_succ, Nat.add_assoc] using r1, by simp [hp]⟩
  | sentinel2 =>
    obtain ⟨k, h0, h1, h2, rfl, rfl, rfl⟩ := h
    obtain ⟨t, hv, ht, hp⟩ := verify_cleared h0
    have r1 := ht.thenSentinel .vfS1 s.cfg.sentinel1 .sentinel1
    have r2 := r1.thenSentinel .vfS2 s.cfg.sentinel2 .sentinel2
    have v1 := ht.sentinelVerdict .vfS1 s.cfg.sentinel1 .sentinel1
    have v2 := r1.sentinelVerdict .vfS2 s.cfg.sentinel2 .sentinel2
    rw [if_pos (by rw [← h1]; congr 1)] at v1
    rw [if_neg (by intro e; apply h2; rw [← e]; congr 1)] at v2
    have e1 := ht.moved.cfg
    have e2 := r1.moved.cfg
    rw [hv, vfS1, e1, onSuccess_none v1, vfS2, e2, onSuccess_some v2]
    exact ⟨rfl, by simpa [sentinelTraces, List.range_succ, Nat.add_assoc] using r2, by simp [hp]⟩
  | sentinel3 =>
    obtain ⟨k, h0, h1, h2, h3, rfl, rfl, rfl⟩ := h
    obtain ⟨t, hv, ht, hp⟩ := verify_cleared h0
    have r1 := ht.thenSentinel .vfS1 s.cfg.sentinel1 .sentinel1
    have r2 := r1.thenSentinel .vfS2 s.cfg.sentinel2 .sentinel2
    have r3 := r2.thenSentinel .vfS3 s.cfg.sentinel3 .sentinel3
    have v1 := ht.sentinelVerdict .vfS1 s.cfg.sentinel1 .sentinel1
    have v2 := r1.sentinelVerdict .vfS2 s.cfg.sentinel2 .sentinel2
    have v3 := r2.sentinelVerdict .vfS3 s.cfg.sentinel3 .sentinel3
    rw [if_pos (by rw [← h1]; congr 1)] at v1
    rw [if_pos (by rw [← h2]; congr 1)] at v2
    rw [if_neg (by intro e; apply h3; rw [← e]; congr 1)] at v3
    have e1 := ht.moved.cfg
    have e2 := r1.moved.cfg
    have e3 := r2.moved.cfg
    rw [hv, vfS1, e1, onSuccess_none v1, vfS2, e2, onSuccess_none v2, vfS3, e3, onSuccess_some v3]
    exact ⟨rfl, by simpa [sentinelTraces, List.range_succ, Nat.add_assoc] using r3, by simp [hp]⟩
  | version =>
    obtain ⟨k, h0, h1, h2, h3, h4, rfl, rfl, rfl⟩ := h
    obtain ⟨t, hv, ht, hp⟩ := verify_cleared h0
    have r1 := ht.thenSentinel .vfS1 s.cfg.sentinel1 .sentinel1
    have r2 := r1.thenSentinel .vfS2 s.cfg.sentinel2 .sentinel2
    have r3 := r2.thenSentinel .vfS3 s.cfg.sentinel3 .sentinel3
    have r4 := r3.thenVersion
    have v1 := ht.sentinelVerdict .vfS1 s.cfg.sentinel1 .sentinel1
    have v2 := r1.sentinelVerdict .vfS2 s.cfg.sentinel2 .sentinel2
    have v3 := r2.sentinelVerdict .vfS3 s.cfg.sentinel3 .sentinel3
    have v4 := r3.versionVerdict
    rw [if_pos (by rw [← h1]; congr 1)] at v1
    rw [if_pos (by rw [← h2]; congr 1)] at v2
    rw [if_pos (by rw [← h3]; congr 1)] at v3
    rw [if_neg (by intro e; apply h4; rw [← e]; congr 1)] at v4
    have e1 := ht.moved.cfg
    have e2 := r1.moved.cfg
    have e3 := r2.moved.cfg
    rw [hv, vfS1, e1, onSuccess_none v1, vfS2, e2, onSuccess_none v2, vfS3, e3, onSuccess_none v3]
    refine ⟨v4, ?_, by simp [hp]⟩
    simpa [fullVerifyTrace, sentinelTraces, List.range_succ, Nat.add_assoc, List.append_assoc] using r4

/-- Passing every check and the five causes are all the ways an identity verification can end, whatever the bus answers
(R241). -/
theorem verification_ends (s : State) (i : Nat) :
    (∃ k, s.verifies i k) ∨ ∃ (c : Cause) (ev : List Event) (n : Nat) (p : BitVec 5), s.failsAs i c ev n p := by
  by_cases h : ∃ k, s.softResetClears i k
  · obtain ⟨k, hk⟩ := h
    by_cases h1 : s.oracle (i + 4 * k + 15) = s.cfg.sentinel1
    · by_cases h2 : s.oracle (i + 4 * k + 23) = s.cfg.sentinel2
      · by_cases h3 : s.oracle (i + 4 * k + 31) = s.cfg.sentinel3
        · by_cases h4 : s.oracle (i + 4 * k + 35) = s.cfg.versionConst
          · exact .inl ⟨k, hk, h1, h2, h3, h4⟩
          · exact .inr ⟨.version, _, _, _, k, hk, h1, h2, h3, h4, rfl, rfl, rfl⟩
        · exact .inr ⟨.sentinel3, _, _, _, k, hk, h1, h2, h3, rfl, rfl, rfl⟩
      · exact .inr ⟨.sentinel2, _, _, _, k, hk, h1, h2, rfl, rfl, rfl⟩
    · exact .inr ⟨.sentinel1, _, _, _, k, hk, h1, rfl, rfl, rfl⟩
  · refine .inr ⟨.resetTimeout, _, _, _, ?_, rfl, rfl, rfl⟩
    intro k hk
    induction k using Nat.strongRecOn with
    | _ k ih => exact fun h0 => h ⟨k, hk, fun j hj => ih j hj (by omega), h0⟩

end Sys2Proof.Machine
end

