-- ==== Sys2Proof/Laws/Init.lean ====
section
/-! SUPPORT. INIT with the latch clear: the state in which its VERIFY starts, and how it ends on answers that pass and on
answers that fail. -/

namespace Sys2Proof.Machine

/-! ### What VERIFY depends on -/

theorem softResetClears_congr {s t : State} (h : t.answers = s.answers) : t.softResetClears = s.softResetClears := by
  funext i k; simp [State.softResetClears, pollAnswer_congr h]

theorem softResetFails_congr {s t : State} (h : t.answers = s.answers) : t.softResetFails = s.softResetFails := by
  funext i; simp [State.softResetFails, pollAnswer_congr h]

theorem verifies_congr {s t : State} (h : t.answers = s.answers) (hc : t.cfg = s.cfg) : t.verifies = s.verifies := by
  funext i k; simp [State.verifies, softResetClears_congr h, oracle_congr h, hc]

theorem softResetTrace_congr {s t : State} (h : t.answers = s.answers) (hc : t.cfg = s.cfg) :
    softResetTrace t = softResetTrace s := by
  funext i k; simp [softResetTrace, write8Trace_congr h hc, read8Trace_congr h hc, failedPolls_congr h hc, hc]

theorem timeoutTrace_congr {s t : State} (h : t.answers = s.answers) (hc : t.cfg = s.cfg) :
    timeoutTrace t = timeoutTrace s := by
  funext i; simp [timeoutTrace, write8Trace_congr h hc, failedPolls_congr h hc, hc]

theorem sentinelTraces_congr {s t : State} (h : t.answers = s.answers) (hc : t.cfg = s.cfg) :
    sentinelTraces t = sentinelTraces s := by
  funext n i; simp [sentinelTraces, sentinelTrace_congr h hc, hc]

theorem fullVerifyTrace_congr {s t : State} (h : t.answers = s.answers) (hc : t.cfg = s.cfg) :
    fullVerifyTrace t = fullVerifyTrace s := by
  funext i k
  simp [fullVerifyTrace, softResetTrace_congr h hc, sentinelTraces_congr h hc, read8Trace_congr h hc, hc]

theorem failsAs_congr {s t : State} (h : t.answers = s.answers) (hc : t.cfg = s.cfg) : t.failsAs = s.failsAs := by
  funext i c ev n p
  cases c <;>
    simp [State.failsAs, softResetClears_congr h, softResetFails_congr h, oracle_congr h, softResetTrace_congr h hc,
      sentinelTraces_congr h hc, fullVerifyTrace_congr h hc, timeoutTrace_congr h hc, hc]

theorem partitionTrace_congr {s t : State} (h : t.answers = s.answers) (hc : t.cfg = s.cfg) :
    partitionTrace t = partitionTrace s := by
  funext i; simp [partitionTrace, write8Trace_congr h hc, hc]

/-! ### The sequence -/

/-- The state in which the VERIFY of an INIT begins: settled, the pin configured, the bus lock taken (R182). -/
def initEntry (s : State) : State :=
  { s with
    chipState := .resetInProgress, phase := .initVerify, csOe := true, csN := true, busOpen := true
    trace := s.trace ++ [.delay s.cfg.resetSettleUnits, .csDirOut, .csHigh, .busBegin] }

theorem bringUp_set {s : State} (h : s.chipState = .operational) :
    bringUp s = { s with phase := .initLatch, res := { s.res with ok := true }, cause := none } := by
  unfold bringUp; rw [if_pos h]; rfl

theorem bringUp_clear {s : State} (h : s.chipState ≠ .operational) :
    bringUp s = initAfterVerify (verify (initEntry s)) := by
  have e : ((((s.enter .initLatch).enter .initSettle).delay s.cfg.resetSettleUnits).enter .initCscfg).configurePin
      = { s with phase := .initCscfg, csOe := true, csN := true,
                 trace := s.trace ++ [.delay s.cfg.resetSettleUnits, .csDirOut, .csHigh] } := by
    simp [State.enter, State.delay, State.emit, State.configurePin]
  unfold bringUp initSettle initCscfg
  rw [if_neg h, State.enter_cfg, e]
  simp [initOpen, initVerify, initEntry, State.enter, State.openBus]

/-- INIT after a VERIFY that passed, in terms of the state that VERIFY ended in (R182). -/
theorem initPart_eq (s : State) (hcs : s.csN = true) :
    ∃ fb, initPart s = { s with
      chipState := .operational, phase := .initClose, busOpen := false, fb := fb
      res := { s.res with ok := true }, cause := none
      drawn := s.drawn + (if s.cfg.largeBuffers then 64 else 0)
      trace := s.trace ++ (if s.cfg.largeBuffers then partitionTrace s s.drawn else []) ++ [.busEnd] } := by
  refine ⟨(partition (s.enter .initPart)).fb, ?_⟩
  cases hl : s.cfg.largeBuffers
  · simp [initPart, initClose, partition, hl, State.enter, State.closeBus, State.returnVerdict]
  · have h := (partition_large (s := s.enter .initPart) hl).moved
    have k := partition_still (s.enter .initPart)
    rw [initPart, initClose, h, k.1, k.2]
    simp [State.enter, State.closeBus, State.returnVerdict, hcs]
    rfl

/-- INIT with the latch clear, on answers that pass (R182). -/
theorem bringUp_succeeds {s : State} {k : Nat} (h : s.chipState ≠ .operational) (hv : s.verifies s.drawn k) :
    ∃ fb, bringUp s = { s with
      chipState := .operational, phase := .initClose, csOe := true, csN := true, busOpen := false, fb := fb
      pollCount := BitVec.ofNat 5 k
      res := { s.res with ok := true }, cause := none
      drawn := s.drawn + (4 * k + 36) + (if s.cfg.largeBuffers then 64 else 0)
      trace := s.trace ++ [.delay s.cfg.resetSettleUnits, .csDirOut, .csHigh, .busBegin]
        ++ fullVerifyTrace s s.drawn k
        ++ (if s.cfg.largeBuffers then partitionTrace s (s.drawn + (4 * k + 36)) else [])
        ++ [.busEnd] } := by
  have v := verify_passes (s := initEntry s) (k := k) (by rw [verifies_congr (s := s) (t := initEntry s) rfl rfl]; exact hv)
  have hm := v.ran.moved
  have hp := v.pollCount
  rw [fullVerifyTrace_congr (s := s) (t := initEntry s) rfl rfl] at hm
  rw [bringUp_clear h, initAfterVerify, v.verdict]
  generalize (verify (initEntry s)).1 = u at hm hp
  obtain ⟨fb, e⟩ := initPart_eq { u with chipState := .identityVerified } (csN_of_moved hm :)
  have ht := partitionTrace_congr (s := s) (t := { u with chipState := .identityVerified }) (hm.answers :) (hm.cfg :)
  refine ⟨fb, e.trans ?_⟩
  rw [ht]
  dsimp only
  rw [hm, hp]
  simp [initEntry]
  exact ⟨rfl, rfl⟩

/-- INIT with the latch clear, on answers that fail (R182, R245). -/
theorem bringUp_fails {s : State} {c : Cause} {ev : List Event} {n : Nat} {p : BitVec 5} (h : s.chipState ≠ .operational)
    (hv : s.failsAs s.drawn c ev n p) :
    ∃ fb, bringUp s = { s with
      chipState := .uninitialized, phase := (bringUp s).phase, csOe := true, csN := true, busOpen := false, fb := fb
      pollCount := p
      res := { s.res with ok := false }, cause := some c
      drawn := s.drawn + n
      trace := s.trace ++ [.delay s.cfg.resetSettleUnits, .csDirOut, .csHigh, .busBegin] ++ ev ++ [.busEnd] } := by
  have v := verify_fails (s := initEntry s) (c := c) (ev := ev) (n := n) (p := p) (by rw [failsAs_congr (s := s) (t := initEntry s) rfl rfl]; exact hv)
  have hm := v.ran.moved
  have hp := v.pollCount
  refine ⟨(verify (initEntry s)).1.fb, ?_⟩
  rw [bringUp_clear h, initAfterVerify, v.verdict]
  simp only [State.failInit, State.closeBus]
  rw [hm, hp]
  simp [initEntry]

end Sys2Proof.Machine
end

