-- ==== Sys2Proof/Laws/Kept.lean ====
section
/-! SUPPORT. What every operation of the block keeps, in whatever state and phase it runs: the configuration, the
environment's answers, what stands at the ports, the encoder's port and the latches; it only adds to the trace and draws
no answer twice. `Kept s t` says it, once for every function of the controller and for `resume`. -/

namespace Sys2Proof.Machine

/-- From `s` to `t` the block's surroundings and latches are the same, and the trace only grew. -/
structure Kept (s t : State) : Prop where
  cfg : t.cfg = s.cfg
  answers : t.answers = s.answers
  offers : t.offers = s.offers
  enc : t.enc = s.enc
  latch : t.latch = s.latch
  drawn : s.drawn ≤ t.drawn
  trace : ∃ ev, t.trace = s.trace ++ ev

theorem Kept.refl (s : State) : Kept s s := ⟨rfl, rfl, rfl, rfl, rfl, Nat.le_refl _, [], by simp⟩

theorem Kept.trans {s t u : State} (h : Kept s t) (k : Kept t u) : Kept s u := by
  obtain ⟨e1, h1⟩ := h.trace
  obtain ⟨e2, h2⟩ := k.trace
  exact ⟨k.cfg.trans h.cfg, k.answers.trans h.answers, k.offers.trans h.offers, k.enc.trans h.enc,
    k.latch.trans h.latch, h.drawn.trans k.drawn, e1 ++ e2, by rw [h2, h1, List.append_assoc]⟩

theorem Moved.kept {s t : State} {e : List Event} {n : Nat} (h : Moved s t e n) : Kept s t := by
  rw [h]; exact ⟨rfl, rfl, rfl, rfl, rfl, Nat.le_add_right _ _, e, rfl⟩

/-- Nothing of what `Kept` speaks of was written. -/
theorem Kept.silent {s t : State} (h : t = { s with
    chipState := t.chipState, phase := t.phase, busy := t.busy, csOe := t.csOe, csN := t.csN, busOpen := t.busOpen
    pollCount := t.pollCount, fb := t.fb, res := t.res, cause := t.cause }) : Kept s t := by
  rw [h]; exact ⟨rfl, rfl, rfl, rfl, rfl, Nat.le_refl _, [], by simp⟩

/-- Of what `Kept` speaks of, only the trace was written, by events added to it. -/
theorem Kept.emits {s t : State} (ev : List Event) (h : t = { s with
    chipState := t.chipState, phase := t.phase, busy := t.busy, csOe := t.csOe, csN := t.csN, busOpen := t.busOpen
    pollCount := t.pollCount, fb := t.fb, res := t.res, cause := t.cause, trace := s.trace ++ ev }) : Kept s t := by
  rw [h]; exact ⟨rfl, rfl, rfl, rfl, rfl, Nat.le_refl _, ev, rfl⟩

theorem kept_enter (s : State) (p : Phase) : Kept s (s.enter p) := Kept.silent rfl

theorem kept_emit (s : State) (e : Event) : Kept s (s.emit e) :=
  ⟨rfl, rfl, rfl, rfl, rfl, Nat.le_refl _, [e], rfl⟩

theorem kept_write8 (s : State) (a : Half) (v : Byte) : Kept s (s.write8 a v) := (write8_moved s a v).kept

theorem kept_read8 (s : State) (a : Half) : Kept s (s.read8 a).1 := (read8_moved s a).kept

theorem kept_onSuccess {s : State} {r : State × Option Cause} {k : State → State × Option Cause}
    (h : Kept s r.1) (hk : ∀ t, Kept t (k t).1) : Kept s (onSuccess r k).1 := by
  unfold onSuccess
  split
  · exact h.trans (hk _)
  · exact h

theorem kept_srPoll (n : Nat) (s : State) : Kept s (srPoll n s).1 := by
  induction n generalizing s with
  | zero => exact Kept.refl s
  | succ n ih =>
    have h := (kept_enter s .srPoll).trans (kept_read8 (s.enter .srPoll) s.cfg.mrAddr)
    simp only [srPoll]
    split
    · exact h
    · exact (h.trans (Kept.emits [.delay pollSpacing] rfl)).trans (ih _)

theorem kept_softReset (s : State) : Kept s (softReset s).1 :=
  (((kept_enter s .srWrite).trans (kept_write8 _ _ _)).trans (Kept.silent rfl)).trans (kept_srPoll softResetAttempts _)

theorem kept_sentinelCheck (p : Phase) (x : Byte) (c : Cause) (s : State) : Kept s (sentinelCheck p x c s).1 :=
  ((kept_enter s p).trans (kept_write8 _ _ _)).trans (kept_read8 _ _)

theorem kept_vfVersion (s : State) : Kept s (vfVersion s).1 := (kept_enter s .vfVersion).trans (kept_read8 _ _)

theorem kept_vfS3 (s : State) : Kept s (vfS3 s).1 := kept_onSuccess (kept_sentinelCheck ..) kept_vfVersion

theorem kept_vfS2 (s : State) : Kept s (vfS2 s).1 := kept_onSuccess (kept_sentinelCheck ..) kept_vfS3

theorem kept_vfS1 (s : State) : Kept s (vfS1 s).1 := kept_onSuccess (kept_sentinelCheck ..) kept_vfS2

theorem kept_verify (s : State) : Kept s (verify s).1 :=
  kept_onSuccess ((kept_enter s .vfReset).trans (kept_softReset _)) kept_vfS1

theorem kept_verifyFrom {p : Phase} {s : State} {r : State × Option Cause} (h : verifyFrom p s = some r) :
    Kept s r.1 := by
  unfold verifyFrom at h
  split at h <;> cases h
  · exact kept_verify s
  · exact kept_onSuccess (kept_softReset s) kept_vfS1
  · exact kept_onSuccess (kept_srPoll _ s) kept_vfS1
  · exact kept_vfS1 s
  · exact kept_vfS2 s
  · exact kept_vfS3 s
  · exact kept_vfVersion s

theorem kept_writeSizes (s : State) (i : Nat) : Kept s (writeSizes s i) := by
  unfold writeSizes
  exact (kept_write8 s _ _).trans (kept_write8 _ _ _)

theorem kept_partition (s : State) : Kept s (partition s) := by
  have loop : ∀ (l : List Nat) (s : State), Kept s (l.foldl writeSizes s) := by
    intro l
    induction l with
    | nil => exact Kept.refl
    | cons i l ih => intro s; rw [List.foldl_cons]; exact (kept_writeSizes s i).trans (ih _)
  unfold partition
  split
  · exact loop _ s
  · exact Kept.refl s

theorem kept_initClose (s : State) : Kept s (initClose s) := Kept.emits [.busEnd] rfl

theorem kept_initPart (s : State) : Kept s (initPart s) :=
  ((kept_enter s .initPart).trans (kept_partition _)).trans (kept_initClose _)

theorem kept_initAfterVerify {s : State} {r : State × Option Cause} (h : Kept s r.1) : Kept s (initAfterVerify r) := by
  unfold initAfterVerify
  split
  · exact (h.trans (Kept.silent rfl)).trans (kept_initPart _)
  · exact h.trans (Kept.emits [.busEnd] rfl)

theorem kept_initVerify (s : State) : Kept s (initVerify s) :=
  kept_initAfterVerify ((kept_enter s .initVerify).trans (kept_verify _))

theorem kept_initOpen (s : State) : Kept s (initOpen s) := (Kept.emits [.busBegin] rfl).trans (kept_initVerify _)

theorem kept_initCscfg (s : State) : Kept s (initCscfg s) :=
  Kept.trans (t := (s.enter .initCscfg).configurePin) (Kept.emits [.csDirOut, .csHigh] rfl) (kept_initOpen _)

theorem kept_initSettle (s : State) : Kept s (initSettle s) :=
  Kept.trans (t := (s.enter .initSettle).delay s.cfg.resetSettleUnits) (Kept.emits [.delay s.cfg.resetSettleUnits] rfl)
    (kept_initCscfg _)

theorem kept_bringUp (s : State) : Kept s (bringUp s) := by
  unfold bringUp
  split
  · exact Kept.silent rfl
  · exact (kept_enter s .initLatch).trans (kept_initSettle _)

theorem kept_initFrom {p : Phase} {s t : State} (h : initFrom p s = some t) : Kept s t := by
  unfold initFrom at h
  split at h
  case h_8 =>
    obtain ⟨r, hr, rfl⟩ := Option.map_eq_some_iff.mp h
    exact kept_initAfterVerify (kept_verifyFrom hr)
  all_goals cases h
  · exact kept_bringUp s
  · exact kept_initSettle s
  · exact kept_initCscfg s
  · exact kept_initOpen s
  · exact kept_initVerify s
  · exact kept_initPart s
  · exact kept_initClose s

theorem kept_linkRead (s : State) : Kept s (linkRead s) :=
  ((kept_enter s .lkRead).trans (kept_read8 _ s.cfg.phyAddr)).trans (Kept.silent rfl)

theorem kept_linkAfterInit (s : State) : Kept s (linkAfterInit s) := by
  unfold linkAfterInit
  split
  · exact kept_linkRead s
  · exact Kept.silent rfl

theorem kept_linkStatus (s : State) : Kept s (linkStatus s) :=
  ((kept_enter s .lkInit).trans (kept_bringUp _)).trans (kept_linkAfterInit _)

theorem kept_linkFrom {p : Phase} {s t : State} (h : linkFrom p s = some t) : Kept s t := by
  unfold linkFrom at h
  split at h
  · cases h; exact kept_linkStatus s
  · cases h; exact kept_linkRead s
  · obtain ⟨u, hu, rfl⟩ := Option.map_eq_some_iff.mp h
    exact (kept_initFrom hu).trans (kept_linkAfterInit u)

theorem kept_execPoll (s : State) : Kept s (execPoll s) := by
  have h := (kept_enter s .exPoll).trans (kept_read8 _ (s.cfg.snAddr s.latch.sock s.cfg.snCrOff))
  unfold execPoll
  dsimp only
  split
  · exact h.trans (Kept.silent rfl)
  · exact h

theorem kept_execWrite (s : State) : Kept s (execWrite s) :=
  ((kept_enter s .exWrite).trans (kept_write8 _ _ _)).trans (kept_execPoll _)

theorem kept_execFrom {p : Phase} {s t : State} (h : execFrom p s = some t) : Kept s t := by
  unfold execFrom at h
  split at h <;> cases h
  · exact kept_execWrite s
  · exact kept_execPoll s

/-- A running operation, resumed from whatever label, keeps the block's surroundings. -/
theorem kept_resume {s t : State} (h : resume s = .next t) : Kept s t := by
  have answer : ∀ {r : Option State}, (match r with
      | some t => Host.Outcome.next t
      | none => Host.Outcome.refused Refusal.noSuchPhase : Host.Outcome State Fault Refusal) = .next t → r = some t := by
    intro r h; cases r <;> cases h; rfl
  unfold resume at h
  dsimp only at h
  split at h
  · obtain ⟨u, hu, rfl⟩ := Option.map_eq_some_iff.mp (answer h); exact (kept_initFrom hu).trans (Kept.silent rfl)
  · obtain ⟨u, hu, rfl⟩ := Option.map_eq_some_iff.mp (answer h); exact (kept_linkFrom hu).trans (Kept.silent rfl)
  · exact kept_execFrom (answer h)
  · obtain ⟨u, hu, rfl⟩ := Option.map_eq_some_iff.mp (answer h); exact (kept_verifyFrom hu).trans (Kept.silent rfl)
  · cases h

end Sys2Proof.Machine
end

