-- ==== Sys2Proof/Laws/Outcome.lean ====
section
/-! SUPPORT. What each accepted operation can have done, once for each: `Did` for the operations that only use the bus,
`bringUp_cases` for INIT, and what the step of a running EXEC does. -/

namespace Sys2Proof.Machine

/-- From `s` to `t` an operation ran that used the bus for `ev`, received `n` bytes, and left the chip deselected; beside
that it may have written the latches, the result registers and what `Moved` leaves open. -/
structure Did (s t : State) (ev : List Event) (n : Nat) : Prop where
  changed : t = { s with
    csN := true, fb := t.fb, phase := t.phase, pollCount := t.pollCount, busy := t.busy, latch := t.latch, res := t.res
    cause := t.cause, drawn := s.drawn + n, trace := s.trace ++ ev }
  quiet : Quiet ev
  brought : receivedBytes ev = s.received s.drawn n

/-- A stretch on the bus between two writes of latches and result registers. -/
theorem Ran.did {s a b t : State} {ev : List Event} {n : Nat} (h : Ran a b ev n)
    (ha : a = { s with busy := a.busy, latch := a.latch, phase := a.phase })
    (ht : t = { b with phase := t.phase, busy := t.busy, res := t.res, cause := t.cause }) : Did s t ev n where
  changed := by
    have hm := h.moved
    unfold Moved at hm
    rw [ht, hm, ha]
  quiet := h.quiet
  brought := by
    have e1 : a.drawn = s.drawn := by rw [ha]
    have e2 : a.answers = s.answers := by rw [ha]
    rw [h.brought, received_congr e2, e1]

/-- Two uses of the bus, one after the other. -/
theorem Did.trans {s t u : State} {e1 e2 : List Event} {m n : Nat} (h : Did s t e1 m) (k : Did t u e2 n) :
    Did s u (e1 ++ e2) (m + n) where
  changed := by rw [k.changed, h.changed]; simp [Nat.add_assoc]
  quiet := h.quiet.append k.quiet
  brought := by
    have e1 : t.answers = s.answers := by rw [h.changed]
    have e2 : t.drawn = s.drawn + m := by rw [h.changed]
    rw [receivedBytes_append, h.brought, k.brought, received_congr e1, e2, ← received_add]

/-- The six register accesses (R153 to R162). -/
theorem access_did {i : Instr} {s t : State}
    (hi : (∃ a l w, i = .wr a l w) ∨ (∃ a l, i = .rd a l) ∨ (∃ a v, i = .wr8 a v) ∨ (∃ a, i = .rd8 a)
      ∨ (∃ a v, i = .wr16 a v) ∨ ∃ a, i = .rd16 a) (h : exec i s = .next t) :
    s.cfg.legal = true ∧ s.busy = false ∧ s.csOe = true ∧ t.busy = false ∧ t.phase = .idle ∧ ∃ ev n, Did s t ev n := by
  rcases hi with ⟨a, l, w, rfl⟩ | ⟨a, l, rfl⟩ | ⟨a, v, rfl⟩ | ⟨a, rfl⟩ | ⟨a, v, rfl⟩ | ⟨a, rfl⟩
  · rw [exec, execWr, hostOp_next] at h
    obtain ⟨h1, h2, h3, rfl⟩ := h
    exact ⟨h1, h2, h3 rfl, rfl, rfl, _, _, (busWrite_ran (s.start (latchWr s.latch a l w)) a w).did rfl rfl⟩
  · rw [exec, execRd, hostOp_next] at h
    obtain ⟨h1, h2, h3, rfl⟩ := h
    exact ⟨h1, h2, h3 rfl, rfl, rfl, _, _, (busRead_ran (s.start (latchRd s.latch a l)) a l.toNat).did rfl rfl⟩
  · rw [exec, execWr8, hostOp_next] at h
    obtain ⟨h1, h2, h3, rfl⟩ := h
    exact ⟨h1, h2, h3 rfl, rfl, rfl, _, _, (write8_ran (s.start (latchWr8 s.latch a v)) a v).did rfl rfl⟩
  · rw [exec, execRd8, hostOp_next] at h
    obtain ⟨h1, h2, h3, rfl⟩ := h
    exact ⟨h1, h2, h3 rfl, rfl, rfl, _, _, (busRead_ran (s.start (latchRd8 s.latch a)) a 1).did rfl rfl⟩
  · rw [exec, execWr16, hostOp_next] at h
    obtain ⟨h1, h2, h3, rfl⟩ := h
    exact ⟨h1, h2, h3 rfl, rfl, rfl, _, _, (busWrite_ran (s.start (latchWr16 s.latch a v)) a (wordBytes v)).did rfl rfl⟩
  · rw [exec, execRd16, hostOp_next] at h
    obtain ⟨h1, h2, h3, rfl⟩ := h
    exact ⟨h1, h2, h3 rfl, rfl, rfl, _, _, (busRead_ran (s.start (latchRd16 s.latch a)) a 2).did rfl rfl⟩

/-- VERIFY issued by the host (R184). -/
theorem verify_did {s t : State} (h : exec .verify s = .next t) :
    s.cfg.legal = true ∧ s.busy = false ∧ s.csOe = true ∧ t.busy = false ∧ t.phase = .idle ∧ ∃ ev n, Did s t ev n := by
  rw [exec, execVerify, hostOp_next] at h
  obtain ⟨h1, h2, h3, rfl⟩ := h
  obtain ⟨ev, n, hr⟩ := verify_ran (s.start (latchOp s.latch 0xB))
  exact ⟨h1, h2, h3 rfl, rfl, rfl, ev, n, hr.did rfl rfl⟩

/-- One poll of an EXEC (R187): it ends the operation or leaves it at its poll label. -/
theorem execPoll_did (s : State) :
    Did s (execPoll s) (read8Trace s (s.cfg.snAddr s.latch.sock s.cfg.snCrOff) s.drawn) 4
      ∧ (execPoll s).latch = s.latch ∧ (execPoll s).res = s.res ∧ (execPoll s).cause = s.cause
      ∧ if s.oracle (s.drawn + 3) = 0x00 then (execPoll s).busy = false ∧ (execPoll s).phase = .idle
        else (execPoll s).busy = s.busy ∧ (execPoll s).phase = .exPoll := by
  have h := read8_ran (s.enter .exPoll) (s.cfg.snAddr s.latch.sock s.cfg.snCrOff)
  have hm := h.moved
  unfold execPoll
  simp only [read8_byte, State.oracle, State.enter_answers, State.enter_drawn]
  split
  · refine ⟨h.did rfl rfl, ?_, ?_, ?_, rfl, rfl⟩ <;> (simp only [State.finish]; rw [hm]; rfl)
  · refine ⟨h.did rfl rfl, ?_, ?_, ?_, ?_, by simp⟩ <;> (rw [hm]; rfl)

/-- EXEC issued by the host (R187): it ends at its first poll or stays at its poll label. -/
theorem exec_did {s t : State} {sock : BitVec 3} {c : Byte} (h : exec (.exec sock c) s = .next t) :
    s.cfg.legal = true ∧ s.busy = false ∧ s.csOe = true
      ∧ (t.busy = false ∧ t.phase = .idle ∨ t.busy = true ∧ t.phase = .exPoll ∧ t.latch.op = 0xA)
      ∧ ∃ ev n, Did s t ev n := by
  rw [exec, execExec, hostOp_next] at h
  obtain ⟨h1, h2, h3, rfl⟩ := h
  have hw := write8_ran ((s.start (latchExec s.latch sock c)).enter .exWrite)
    (s.cfg.snAddr sock s.cfg.snCrOff) (loByte (c.setWidth 16))
  have hm := hw.moved
  generalize hu : ((s.start (latchExec s.latch sock c)).enter .exWrite).write8
    (s.cfg.snAddr sock s.cfg.snCrOff) (loByte (c.setWidth 16)) = u at hw hm
  have e : execWrite (s.start (latchExec s.latch sock c)) = execPoll u := by rw [← hu]; rfl
  obtain ⟨d, hl, -, -, hb⟩ := execPoll_did u
  have hd := hw.did (s := s) (t := u) rfl rfl
  rw [e]
  refine ⟨h1, h2, h3 rfl, ?_, _, _, hd.trans d⟩
  split at hb
  · exact .inl hb
  · exact .inr ⟨by rw [hb.1, hm]; rfl, hb.2, by rw [hl, hm]; rfl⟩

/-- SOFTRESET as a step of its own (R183). -/
theorem softReset_did {s t : State} (h : exec .softReset s = .next t) :
    s.cfg.legal = true ∧ s.csOe = true ∧ t.busy = s.busy ∧ t.phase = s.phase ∧ t.latch = s.latch ∧ ∃ ev n, Did s t ev n := by
  rw [exec, execSoftReset, microOp_next] at h
  obtain ⟨h1, h3, rfl⟩ := h
  obtain ⟨ev, n, hr⟩ := softReset_ran s
  refine ⟨h1, h3 rfl, ?_, rfl, ?_, ev, n, hr.did rfl rfl⟩ <;> (dsimp only; rw [hr.moved])

/-- INIT, on whatever answers (R182, R188, R245): nothing at the ports with the latch set; else settle, pin, lock, a stretch
on the bus, unlock, and the latch set exactly on success. -/
theorem bringUp_cases (s : State) :
    (s.chipState = .operational
        ∧ bringUp s = { s with phase := .initLatch, res := { s.res with ok := true }, cause := none })
      ∨ (s.chipState ≠ .operational
        ∧ ∃ ev n, Quiet ev ∧ receivedBytes ev = s.received s.drawn n
          ∧ (((bringUp s).chipState = .operational ∧ (bringUp s).res.ok = true)
            ∨ ((bringUp s).chipState = .uninitialized ∧ (bringUp s).res.ok = false))
          ∧ bringUp s = { s with
            chipState := (bringUp s).chipState, phase := (bringUp s).phase, csOe := true, csN := true, busOpen := false
            fb := (bringUp s).fb, pollCount := (bringUp s).pollCount
            res := { s.res with ok := (bringUp s).res.ok }, cause := (bringUp s).cause
            drawn := s.drawn + n
            trace := s.trace ++ [.delay s.cfg.resetSettleUnits, .csDirOut, .csHigh, .busBegin] ++ ev ++ [.busEnd] }) := by
  by_cases h : s.chipState = .operational
  · exact .inl ⟨h, bringUp_set h⟩
  · refine .inr ⟨h, ?_⟩
    obtain ⟨ev, n, hr⟩ := verify_ran (initEntry s)
    have hm := hr.moved
    rw [bringUp_clear h, initAfterVerify]
    generalize verify (initEntry s) = r at hr hm
    obtain ⟨u, v⟩ := r
    dsimp only at *
    cases v with
    | some c =>
      refine ⟨ev, n, hr.quiet, hr.brought, .inr ⟨rfl, rfl⟩, ?_⟩
      simp only [State.failInit, State.closeBus]
      rw [hm]; simp [initEntry]
    | none =>
      dsimp only
      obtain ⟨fb, e⟩ := initPart_eq { u with chipState := .identityVerified } (csN_of_moved hm :)
      have ht := partitionTrace_congr (s := s) (t := { u with chipState := .identityVerified }) (hm.answers :) (hm.cfg :)
      have hd : u.drawn = s.drawn + n := hm.drawn
      have hc : u.cfg = s.cfg := hm.cfg
      rw [e, ht]
      dsimp only
      cases hl : s.cfg.largeBuffers with
      | false =>
        refine ⟨ev, n, hr.quiet, hr.brought, .inl ⟨rfl, rfl⟩, ?_⟩
        rw [hc, hl, hm]; simp [initEntry]
      | true =>
        have hp := partition_large (s := { s with drawn := s.drawn + n }) hl
        refine ⟨ev ++ partitionTrace s (s.drawn + n), n + 64, hr.quiet.append ?_, ?_, .inl ⟨rfl, rfl⟩, ?_⟩
        · exact hp.quiet
        · rw [receivedBytes_append, received_add]
          exact congrArg₂ _ hr.brought hp.brought
        · rw [hc, hl, hd, hm]; simp [initEntry, Nat.add_assoc]

/-- `LK.read` (R186). -/
theorem linkRead_did (s : State) : Did s (linkRead s) (read8Trace s s.cfg.phyAddr s.drawn) 4 :=
  (read8_ran (s.enter .lkRead) s.cfg.phyAddr).did rfl rfl

end Sys2Proof.Machine
end

