-- ==== Sys2Proof/Laws/PerInstr.lean ====
section
/-! SUPPORT. One lemma for each constructor of `Instr`: the encoder puts an instruction's word at the port of its row's
format (spec 30_encoding.md R80, R90, R91). -/

namespace Sys2Proof.Laws.EncodeFormat

/-- The word of `i` has the format of `i`'s row. -/
def Statement (i : Instr) : Prop := (encode i).format = i.format

theorem encCommonR (addr : Half) (sock : BitVec 3) : Statement (.encCommonR addr sock) := rfl
theorem encSockregR (addr : Half) (sock : BitVec 3) : Statement (.encSockregR addr sock) := rfl
theorem encCommonW (addr : Half) (sock : BitVec 3) : Statement (.encCommonW addr sock) := rfl
theorem encSockregW (addr : Half) (sock : BitVec 3) : Statement (.encSockregW addr sock) := rfl
theorem encTxbufR2K (addr : Half) (sock : BitVec 3) : Statement (.encTxbufR2K addr sock) := rfl
theorem encTxbufW2K (addr : Half) (sock : BitVec 3) : Statement (.encTxbufW2K addr sock) := rfl
theorem encTxbufR4K (addr : Half) (sock : BitVec 3) : Statement (.encTxbufR4K addr sock) := rfl
theorem encTxbufW4K (addr : Half) (sock : BitVec 3) : Statement (.encTxbufW4K addr sock) := rfl
theorem encTxbufR8K (addr : Half) (sock : BitVec 3) : Statement (.encTxbufR8K addr sock) := rfl
theorem encTxbufW8K (addr : Half) (sock : BitVec 3) : Statement (.encTxbufW8K addr sock) := rfl
theorem encTxbufR16K (addr : Half) (sock : BitVec 3) : Statement (.encTxbufR16K addr sock) := rfl
theorem encTxbufW16K (addr : Half) (sock : BitVec 3) : Statement (.encTxbufW16K addr sock) := rfl
theorem encRxbufR2K (addr : Half) (sock : BitVec 3) : Statement (.encRxbufR2K addr sock) := rfl
theorem encRxbufW2K (addr : Half) (sock : BitVec 3) : Statement (.encRxbufW2K addr sock) := rfl
theorem encRxbufR4K (addr : Half) (sock : BitVec 3) : Statement (.encRxbufR4K addr sock) := rfl
theorem encRxbufW4K (addr : Half) (sock : BitVec 3) : Statement (.encRxbufW4K addr sock) := rfl
theorem encRxbufR8K (addr : Half) (sock : BitVec 3) : Statement (.encRxbufR8K addr sock) := rfl
theorem encRxbufW8K (addr : Half) (sock : BitVec 3) : Statement (.encRxbufW8K addr sock) := rfl
theorem encRxbufR16K (addr : Half) (sock : BitVec 3) : Statement (.encRxbufR16K addr sock) := rfl
theorem encRxbufW16K (addr : Half) (sock : BitVec 3) : Statement (.encRxbufW16K addr sock) := rfl
theorem wr (addr len : Half) (wbuf : List Byte) : Statement (.wr addr len wbuf) := rfl
theorem rd (addr len : Half) : Statement (.rd addr len) := rfl
theorem wr8 (addr : Half) (v : Byte) : Statement (.wr8 addr v) := rfl
theorem rd8 (addr : Half) : Statement (.rd8 addr) := rfl
theorem wr16 (addr v : Half) : Statement (.wr16 addr v) := rfl
theorem rd16 (addr : Half) : Statement (.rd16 addr) := rfl
theorem init : Statement (.init) := rfl
theorem link : Statement (.link) := rfl
theorem exec (sock : BitVec 3) (c : Byte) : Statement (.exec sock c) := rfl
theorem verify : Statement (.verify) := rfl
theorem reserved0 : Statement (.reserved0) := rfl
theorem reserved7 : Statement (.reserved7) := rfl
theorem reservedC : Statement (.reservedC) := rfl
theorem reservedD : Statement (.reservedD) := rfl
theorem reservedE : Statement (.reservedE) := rfl
theorem reservedF : Statement (.reservedF) := rfl
theorem csCfg : Statement (.csCfg) := rfl
theorem csLow : Statement (.csLow) := rfl
theorem csHigh : Statement (.csHigh) := rfl
theorem softReset : Statement (.softReset) := rfl
theorem partition : Statement (.partition) := rfl

end Sys2Proof.Laws.EncodeFormat
end

