-- ==== Sys2Proof/Laws/Step.lean ====
section
/-! SUPPORT. What one step can do, once: `step_cases` from every state that meets the invariant, `init_broughtUp` and
`link_broughtUp` for the two operations that move `chip_state`; runs of steps; and the poll of a spinning EXEC. -/

namespace Sys2Proof.Machine

/-! ### Runs -/

theorem core_run_succ (M : Host.Core) {n : Nat} {s t : M.State} (h : M.step s = .next t) : M.run (n + 1) s = M.run n t := by
  simp [Host.Core.run, h]

theorem core_run_refused (M : Host.Core) {n : Nat} {s : M.State} {r : M.Refusal} (h : M.step s = .refused r) :
    M.run (n + 1) s = .refused r := by
  simp [Host.Core.run, h]

theorem run_next {n : Nat} {s t : State} (h : step s = .next t) :
    Sys2Proof.core.run (n + 1) s = Sys2Proof.core.run n t := core_run_succ Sys2Proof.core h

/-- A run that has reached `t` goes on with the step of `t`. -/
theorem run_then_step (n : Nat) {s t : State} (h : Sys2Proof.core.run n s = .next t) :
    Sys2Proof.core.run (n + 1) s = step t := by
  induction n generalizing s with
  | zero =>
    cases h
    cases hs : step t with
    | next u => rw [run_next hs]; rfl
    | fault r => cases r
    | refused r => exact core_run_refused Sys2Proof.core hs
  | succ n ih =>
    cases hs : step s with
    | next u => rw [run_next hs] at h ⊢; exact ih h
    | fault r => cases r
    | refused r => rw [core_run_refused Sys2Proof.core hs] at h; cases h

/-! ### The poll loop -/

/-- A spinning block with no encoder request at its ports polls (R187). -/
theorem step_of_spinning {s : State} (hs : s.spinning) (h6 : ∀ w, s.offers.head? = some w → w.format ≠ .frame) :
    step s = .next (execPoll s) := by
  obtain ⟨h1, h2, h3, h4, h5⟩ := hs
  have : step s = resume s := by
    simp only [step, serveNext, h1, h2]
    cases ho : s.offers with
    | nil => rfl
    | cons w r => simp [h6 w (by simp [ho])]
  rw [this]; simp [resume, h3, execFrom, h4]

/-- An instruction of the encoder's port that the decoder gives completes, and only drives that port (R131). -/
theorem exec_of_frame {s : State} {w : PortWord} {i : Instr} (hl : s.cfg.legal = true) (hf : w.format = .frame)
    (hd : decode s.cfg w = .ok i) : ∃ e, exec i s = .next { s with enc := e } := by
  have row : ∀ rw a k, ∃ e, exec (encInstr s.cfg.tier rw a k) s = .next { s with enc := e } := by
    intro rw a k
    unfold encInstr
    split <;> exact ⟨_, encPort_next.mpr ⟨hl, by simp [*], rfl⟩⟩
  cases w with
  | enc rw a k => cases hd; exact row rw a k
  | frame w =>
    simp only [decode, decodeFrame] at hd
    split at hd
    · cases hd; exact row _ _ _
    · cases hd
  | host l => cases hf
  | uop l => cases hf

/-- An encoder request at the head of the ports is served at any time (R131). -/
theorem step_of_request {s : State} {w : PortWord} {rest : List PortWord} (hl : s.cfg.legal = true)
    (ho : s.offers = w :: rest) (hf : w.format = .frame) (hd : ∃ i, decode s.cfg w = .ok i) :
    ∃ e, step s = .next { s with enc := e, offers := rest } := by
  obtain ⟨i, hd⟩ := hd
  obtain ⟨e, he⟩ := exec_of_frame (s := { s with offers := rest }) hl hf hd
  exact ⟨e, by simp [step, serveNext, hl, ho, serve, hf, hd, he]⟩

/-- A run serves all the encoder requests at the head of the ports, and then goes on without them. -/
theorem run_requests {s : State} {reqs rest : List PortWord} (n : Nat) (hl : s.cfg.legal = true)
    (ho : s.offers = reqs ++ rest) (hr : ∀ w ∈ reqs, w.format = .frame ∧ ∃ i, decode s.cfg w = .ok i) :
    ∃ e, (reqs = [] → e = s.enc)
      ∧ Sys2Proof.core.run (reqs.length + n) s = Sys2Proof.core.run n { s with enc := e, offers := rest } := by
  induction reqs generalizing s with
  | nil => exact ⟨s.enc, fun _ => rfl, by rw [← show s.offers = rest from ho]; simp⟩
  | cons w reqs ih =>
    have hw := hr w (.head _)
    obtain ⟨e, he⟩ := step_of_request hl ho hw.1 hw.2
    obtain ⟨e', -, h'⟩ := ih (s := { s with enc := e, offers := reqs ++ rest }) hl rfl
      fun v hv => hr v (.tail _ hv)
    exact ⟨e', nofun, by rw [List.length_cons, Nat.add_right_comm, run_next he]; exact h'⟩

/-! ### One step -/

/-- What a step can do from a state that meets the invariant: wait, serve the encoder's port, use the bus (a register
access, VERIFY, or EXEC up to its next poll), INIT, or LINK. -/
inductive StepKind (s t : State) : Prop where
  | waits (h : t = s)
  | encodes (e : EncPort) (rest : List PortWord) (h : t = { s with enc := e, offers := rest })
  | accesses (rest : List PortWord) (ev : List Event) (n : Nat) (pin : s.csOe = true)
      (h : Did { s with offers := rest } t ev n)
      (ends : t.busy = false ∧ t.phase = .idle ∨ t.busy = true ∧ t.phase = .exPoll ∧ t.latch.op = 0xA)
  | inits (rest : List PortWord) (h : exec .init { s with offers := rest } = .next t)
  | links (rest : List PortWord) (h : exec .link { s with offers := rest } = .next t)

/-- An instruction that stood at a port, run. -/
theorem served_cases {i : Instr} {s t : State} {rest : List PortWord} (hf : i.format ≠ .uop)
    (h : exec i { s with offers := rest } = .next t) : StepKind s t := by
  cases i
  case wr => obtain ⟨-, -, a, b, c, _, _, d⟩ := access_did (by simp) h; exact .accesses _ _ _ a d (.inl ⟨b, c⟩)
  case rd => obtain ⟨-, -, a, b, c, _, _, d⟩ := access_did (by simp) h; exact .accesses _ _ _ a d (.inl ⟨b, c⟩)
  case wr8 => obtain ⟨-, -, a, b, c, _, _, d⟩ := access_did (by simp) h; exact .accesses _ _ _ a d (.inl ⟨b, c⟩)
  case rd8 => obtain ⟨-, -, a, b, c, _, _, d⟩ := access_did (by simp) h; exact .accesses _ _ _ a d (.inl ⟨b, c⟩)
  case wr16 => obtain ⟨-, -, a, b, c, _, _, d⟩ := access_did (by simp) h; exact .accesses _ _ _ a d (.inl ⟨b, c⟩)
  case rd16 => obtain ⟨-, -, a, b, c, _, _, d⟩ := access_did (by simp) h; exact .accesses _ _ _ a d (.inl ⟨b, c⟩)
  case exec => obtain ⟨-, -, a, b, _, _, d⟩ := exec_did h; exact .accesses _ _ _ a d b
  case verify => obtain ⟨-, -, a, b, c, _, _, d⟩ := verify_did h; exact .accesses _ _ _ a d (.inl ⟨b, c⟩)
  case init => exact .inits _ h
  case link => exact .links _ h
  case reserved0 | reserved7 | reservedC | reservedD | reservedE | reservedF => cases h
  case softReset | partition | csCfg | csLow | csHigh => exact absurd rfl hf
  all_goals
    cases (encPort_next.mp h).2.2
    exact .encodes _ _ rfl

/-- What a step can do. -/
theorem step_cases {s t : State} (hi : BlockInv s) (h : step s = .next t) : StepKind s t := by
  obtain ⟨h1, -, -, -, -, -, h7, -⟩ := hi
  have resumes : s.busy = true → resume s = .next t → StepKind s t := by
    intro hb hr
    obtain ⟨l1, l2, l3⟩ := h7 hb
    rw [show resume s = .next (execPoll s) by simp [resume, l1, execFrom, l2]] at hr
    cases hr
    obtain ⟨d, e1, -, -, e4⟩ := execPoll_did s
    refine .accesses s.offers _ _ l3 d ?_
    split at e4
    · exact .inl e4
    · exact .inr ⟨e4.1.trans hb, e4.2, by rw [e1, l1]⟩
  simp only [step, serveNext, h1, Bool.not_true, Bool.false_eq_true, if_false] at h
  split at h
  · split at h
    · exact resumes ‹_› h
    · cases h; exact .waits rfl
  · split at h
    · rename_i hb; simp at hb; exact resumes hb.1 h
    · unfold serve at h
      split at h
      · cases h
      · split at h
        · rename_i hf _ i hd; exact served_cases (by rw [decode_format hd]; exact hf) h
        · cases h

/-- What INIT and LINK can do: with the latch set at most one read; else the whole sequence, and after it at most one
read. -/
structure BroughtUp (s t : State) : Prop where
  legal : s.cfg.legal = true
  busy : t.busy = false
  phase : t.phase = .idle
  did : (s.chipState = .operational
      ∧ ∃ ev n, Quiet ev ∧ receivedBytes ev = s.received s.drawn n ∧ (ev = [] ∧ t.csN = s.csN ∨ t.csN = true)
        ∧ t = { s with
          csN := t.csN, phase := t.phase, fb := t.fb, latch := t.latch, res := t.res, cause := t.cause
          drawn := s.drawn + n, trace := s.trace ++ ev })
    ∨ ∃ ev ev' n, Quiet ev ∧ Quiet ev' ∧ receivedBytes (ev ++ ev') = s.received s.drawn n
        ∧ (t.chipState = .operational ∨ t.chipState = .uninitialized) ∧ s.chipState ≠ .operational
        ∧ t = { s with
          chipState := t.chipState, csOe := true, csN := true, busOpen := false, phase := t.phase, fb := t.fb
          pollCount := t.pollCount, latch := t.latch, res := t.res, cause := t.cause, drawn := s.drawn + n
          trace := s.trace ++ [.delay s.cfg.resetSettleUnits, .csDirOut, .csHigh, .busBegin] ++ ev ++ [.busEnd] ++ ev' }

theorem init_broughtUp {s t : State} (h : exec .init s = .next t) : BroughtUp s t := by
  rw [exec, execInit, hostOp_next] at h
  obtain ⟨h1, h2, -, rfl⟩ := h
  refine ⟨h1, rfl, rfl, ?_⟩
  rcases bringUp_cases (s.start (latchOp s.latch 0x8)) with ⟨a, b⟩ | ⟨a, ev, n, q, r, o, e⟩
  · refine .inl ⟨a, [], 0, Quiet.nil, rfl, ?_, ?_⟩
    · rw [b]; exact .inl ⟨rfl, rfl⟩
    · rw [b]; simp [State.start, State.finish, h2]
  · refine .inr ⟨ev, [], n, q, Quiet.nil, by rw [List.append_nil]; exact r, ?_, a, ?_⟩
    · exact o.imp (·.1) (·.1)
    · simp only [State.finish]
      generalize bringUp (s.start (latchOp s.latch 0x8)) = u at *
      rw [e]
      simp [State.start, h2]

theorem link_broughtUp {s t : State} (h : exec .link s = .next t) : BroughtUp s t := by
  rw [exec, execLink, hostOp_next] at h
  obtain ⟨h1, h2, -, rfl⟩ := h
  refine ⟨h1, rfl, rfl, ?_⟩
  simp only [linkStatus]
  have cas := bringUp_cases ((s.start (latchOp s.latch 0x9)).enter .lkInit)
  generalize bringUp ((s.start (latchOp s.latch 0x9)).enter .lkInit) = u at *
  rcases cas with ⟨a, b⟩ | ⟨a, ev, n, q, r, o, e⟩
  · refine .inl ⟨a, ?_⟩
    have d := linkRead_did u
    refine ⟨_, _, d.quiet, by rw [d.brought, b]; rfl, .inr ?_, ?_⟩
    · simp only [linkAfterInit]; rw [if_pos (by rw [b])]; simp only [State.finish]; rw [d.changed]
    · simp only [linkAfterInit]; rw [if_pos (by rw [b])]
      have hb : u.drawn = s.drawn := by rw [b]; rfl
      have hp : (linkRead u).pollCount = u.pollCount := by simp [linkRead, State.returnLink]
      rw [d.changed]
      simp only [State.finish, hp]
      rw [b]
      simp [State.start, State.enter, h2]
  · refine .inr ?_
    rcases o with ⟨o1, o2⟩ | ⟨o1, o2⟩
    · have d := linkRead_did u
      have hp : (linkRead u).pollCount = u.pollCount := by simp [linkRead, State.returnLink]
      refine ⟨ev, _, n + 4, q, d.quiet, ?_, ?_, a, ?_⟩
      · have ua : u.answers = s.answers := by rw [e]; rfl
        have ud : u.drawn = s.drawn + n := by rw [e]; rfl
        rw [receivedBytes_append, d.brought, r, received_congr ua, ud, received_add]; rfl
      · simp only [linkAfterInit, o2, if_true, State.finish]; rw [d.changed]; exact .inl o1
      · simp only [linkAfterInit, o2, if_true, State.finish]
        rw [d.changed, hp]
        generalize linkRead u = v
        dsimp only
        rw [e]
        simp [State.start, State.enter, h2, Nat.add_assoc]
    · refine ⟨ev, [], n, q, Quiet.nil, by rw [List.append_nil]; exact r, ?_, a, ?_⟩
      · simp only [linkAfterInit, o2, State.finish]; exact .inr o1
      · simp only [linkAfterInit, o2, State.finish, State.returnLink]
        rw [e]
        simp [State.start, State.enter, h2]

end Sys2Proof.Machine
end

