-- ==== Sys2Proof/Tests/Slice0.lean ====
section
/-! SUPPORT. The model's own tests: words written out from the spec's encodings, the ill-formed terms, the vectors of
95_test_vectors.md one step at a time, and for every statement with hypotheses a state and operands that meet them. Every
expected value is the spec's; the byte 0xA5 stands for a received byte that no rule reads (95_test_vectors.md section 5). -/

namespace Sys2Proof.Tests

open Sys2Proof.Machine

/-! ### Helpers -/

/-- The next state, if there is one. -/
def nextOf (o : Host.Outcome State Fault Refusal) : Option State :=
  match o with
  | .next t => some t
  | .fault _ => none
  | .refused _ => none

/-- The refusal, if there is one. -/
def refusalOf (o : Host.Outcome State Fault Refusal) : Option Refusal :=
  match o with
  | .next _ => none
  | .fault _ => none
  | .refused r => some r

/-- A block built with `c`, its pin configured, whose environment answers `answers`. -/
def pinned (c : Config) (answers : List Byte) : State :=
  { State.resetWith c with csOe := true, csN := true, answers := answers }

/-- The same with the latch set. -/
def broughtUp (c : Config) (answers : List Byte) : State := { pinned c answers with chipState := .operational }

/-- A block just reset whose environment answers `answers`. -/
def fresh (c : Config) (answers : List Byte) : State := { State.resetWith c with answers := answers }

/-- A block in the poll loop of `EXEC 3, 0x01`. -/
def polling (answers : List Byte) : State :=
  { pinned .default answers with busy := true, phase := .exPoll, latch := ⟨0xA, 0, 3, 0, 1, []⟩ }

/-- The default parameters in tier `t`. -/
def tiered (t : Tier) : Config := Config.default.withTier t

/-- What is received during a one-byte write, and during a one-byte read that answers `x`. -/
def wa : List Byte := [0xA5, 0xA5, 0xA5, 0xA5]
def ra (x : Byte) : List Byte := [0xA5, 0xA5, 0xA5, x]

/-- `T_W(v)` and `T_R(a, x)` of 95_test_vectors.md section 4, and the write of `v` to a register in `frame`. -/
def tw (v : Byte) : List Event := [.csLow, .xfer [0x00, 0x00, 0x04, v] wa, .csHigh]
def tr (a x : Byte) : List Event := [.csLow, .xfer [0x00, a, 0x00] [0xA5, 0xA5, 0xA5], .xfer [0x00] [x], .csHigh]
def pw (off control v : Byte) : List Event := [.csLow, .xfer [0x00, off, control, v] wa, .csHigh]

/-- A soft reset whose mode-register reads answer `polls`; the answers of an ideal chip after it (V1). -/
def resetAns (polls : List Byte) : List Byte := wa ++ polls.flatMap ra
def ideal : List Byte := resetAns [0x00] ++ wa ++ ra 0x08 ++ wa ++ ra 0x10 ++ wa ++ ra 0x00 ++ ra 0x04

/-- V1's nine transactions. -/
def v1 : List Event :=
  tw 0x80 ++ tr 0x00 0x00 ++ tw 0x08 ++ tr 0x00 0x08 ++ tw 0x10 ++ tr 0x00 0x10 ++ tw 0x00 ++ tr 0x00 0x00 ++ tr 0x39 0x04

/-- Twenty polls that never read zero. -/
def deadPolls : List Byte := List.replicate 20 0x80

/-! ### Decoding: words written out from 30_encoding.md R81, R90, R91, R92 and spec/opcode_table.json -/

/-- The frames of the register regions: `00000000 aaaaaaaa 00000000` and so on. -/
theorem test_decode_register_frames :
    decodeTableWord 24 0b000000000010111000000000 = some (.encCommonR 0x002E 0)
      ∧ decodeTableWord 24 0b000000000011100100000100 = some (.encCommonW 0x0039 0)
      ∧ decodeTableWord 24 0b000000000000000101101000 = some (.encSockregR 0x1301 3)
      ∧ decodeTableWord 24 0b000000000001111111101100 = some (.encSockregW 0x171F 7) := by decide

/-- The frames of the buffer regions in the 2K tier: `10aaaaaa aaaaaaaa sss10000` and so on (section 2.2). -/
theorem test_decode_2K_frames :
    decodeTableWord 24 0b100010000000000000110000 = some (.encTxbufR2K 0x8800 1)
      ∧ decodeTableWord 24 0b101111111111111111110100 = some (.encTxbufW2K 0xBFFF 7)
      ∧ decodeTableWord 24 0b110100010010001101011000 = some (.encRxbufR2K 0xD123 2)
      ∧ decodeTableWord 24 0b111111111111111111111100 = some (.encRxbufW2K 0xFFFF 7) := by decide

/-- The 4K, 8K and 16K tiers (section 2.2), in a block of that tier. -/
theorem test_decode_large_tier_frames :
    (decode (tiered .k4) (.frame 0b101000000000000001010000)).toOption = some (.encTxbufR4K 0xA000 2)
      ∧ (decode (tiered .k4) (.frame 0b100100000000000000110100)).toOption = some (.encTxbufW4K 0x9000 1)
      ∧ (decode (tiered .k4) (.frame 0b110100010010001100111000)).toOption = some (.encRxbufR4K 0xD123 1)
      ∧ (decode (tiered .k4) (.frame 0b111110000000000001111100)).toOption = some (.encRxbufW4K 0xF800 3)
      ∧ (decode (tiered .k8) (.frame 0b101000000000000000110000)).toOption = some (.encTxbufR8K 0xA000 1)
      ∧ (decode (tiered .k8) (.frame 0b100100000000000000010100)).toOption = some (.encTxbufW8K 0x9000 0)
      ∧ (decode (tiered .k8) (.frame 0b111000000000000000111000)).toOption = some (.encRxbufR8K 0xE000 1)
      ∧ (decode (tiered .k8) (.frame 0b110010000000000000011100)).toOption = some (.encRxbufW8K 0xC800 0)
      ∧ (decode (tiered .k16) (.frame 0b101111111111111100010000)).toOption = some (.encTxbufR16K 0xBFFF 0)
      ∧ (decode (tiered .k16) (.frame 0b101000000000000000010100)).toOption = some (.encTxbufW16K 0xA000 0)
      ∧ (decode (tiered .k16) (.frame 0b111111111111111100011000)).toOption = some (.encRxbufR16K 0xFFFF 0)
      ∧ (decode (tiered .k16) (.frame 0b111000000000000000011100)).toOption = some (.encRxbufW16K 0xE000 0) := by decide

/-- R88, R89, D37: `OM` not 0, a common frame with a socket, a transmit frame whose `h0[7:6]` is not `10`, and a socket that
the tier does not have, are refused. -/
theorem test_decode_refuses_frames_never_produced :
    decodeTableWord 24 0x000001 = none
      ∧ decodeTableWord 24 0x000020 = none
      ∧ decodeTableWord 24 0x400010 = none
      ∧ (decode (tiered .k16) (.frame 0xA00030)).toOption = none
      ∧ (decode .default (.frame 0x880010)).toOption = none := by decide

/-- The ten operations (R90), on latches of zeros. -/
theorem test_decode_host_codes :
    decodeTableWord 8 0b0001 = some (.wr 0 0 []) ∧ decodeTableWord 8 0b0010 = some (.rd 0 0)
      ∧ decodeTableWord 8 0b0011 = some (.wr8 0 0) ∧ decodeTableWord 8 0b0100 = some (.rd8 0)
      ∧ decodeTableWord 8 0b0101 = some (.wr16 0 0) ∧ decodeTableWord 8 0b0110 = some (.rd16 0)
      ∧ decodeTableWord 8 0b1000 = some .init ∧ decodeTableWord 8 0b1001 = some .link
      ∧ decodeTableWord 8 0b1010 = some (.exec 0 0) ∧ decodeTableWord 8 0b1011 = some .verify := by decide

/-- The operations of programs P1 and P3 with their latches (section 6, "host encoding"). -/
theorem test_decode_host_operands :
    (decodeHost ⟨0x5, 0x0019, 0, 0, 0xFFFA, []⟩).toOption = some (.wr16 0x0019 0xFFFA)
      ∧ (decodeHost ⟨0xA, 0, 3, 0, 0x0001, []⟩).toOption = some (.exec 3 0x01)
      ∧ (decodeHost ⟨0x3, 0x0000, 0, 0, 0x0080, []⟩).toOption = some (.wr8 0x0000 0x80)
      ∧ (decodeHost ⟨0x2, 0xD010, 0, 4, 0, []⟩).toOption = some (.rd 0xD010 4)
      ∧ (decodeHost ⟨0x1, 0x9010, 0, 2, 0, [0xDE, 0xAD]⟩).toOption = some (.wr 0x9010 2 [0xDE, 0xAD])
      ∧ (decodeHost ⟨0x1, 0x9010, 0, 3, 0, [0xDE, 0xAD]⟩).toOption = none := by decide

/-- The six codes of R92. -/
theorem test_decode_reserved_codes :
    decodeTableWord 8 0b0000 = some .reserved0 ∧ decodeTableWord 8 0b0111 = some .reserved7
      ∧ decodeTableWord 8 0b1100 = some .reservedC ∧ decodeTableWord 8 0b1101 = some .reservedD
      ∧ decodeTableWord 8 0b1110 = some .reservedE ∧ decodeTableWord 8 0b1111 = some .reservedF := by decide

/-- The labels of R91, and the three that name nothing. -/
theorem test_decode_labels :
    decodeTableWord 3 0b000 = some .csCfg ∧ decodeTableWord 3 0b001 = some .csLow ∧ decodeTableWord 3 0b010 = some .csHigh
      ∧ decodeTableWord 3 0b011 = some .softReset ∧ decodeTableWord 3 0b100 = some .partition
      ∧ decodeTableWord 3 0b101 = none ∧ decodeTableWord 3 0b110 = none ∧ decodeTableWord 3 0b111 = none := by decide

/-! ### Well-formedness: an ill-formed term for each check -/

theorem test_wf_region_checks :
    (Instr.encCommonR 0x0100 0).wf .default = false ∧ (Instr.encCommonW 0x0100 0).wf .default = false
      ∧ (Instr.encSockregR 0x00FF 0).wf .default = false ∧ (Instr.encSockregW 0x8000 0).wf .default = false
      ∧ (Instr.encTxbufR2K 0x7FFF 0).wf .default = false ∧ (Instr.encTxbufW2K 0xC000 0).wf .default = false
      ∧ (Instr.encRxbufR2K 0xBFFF 0).wf .default = false ∧ (Instr.encRxbufW2K 0x0000 0).wf .default = false
      ∧ (Instr.encTxbufR4K 0xC000 0).wf (tiered .k4) = false ∧ (Instr.encTxbufW4K 0xC000 0).wf (tiered .k4) = false
      ∧ (Instr.encRxbufR4K 0xBFFF 0).wf (tiered .k4) = false ∧ (Instr.encRxbufW4K 0xBFFF 0).wf (tiered .k4) = false
      ∧ (Instr.encTxbufR8K 0xC000 0).wf (tiered .k8) = false ∧ (Instr.encTxbufW8K 0xC000 0).wf (tiered .k8) = false
      ∧ (Instr.encRxbufR8K 0xBFFF 0).wf (tiered .k8) = false ∧ (Instr.encRxbufW8K 0xBFFF 0).wf (tiered .k8) = false
      ∧ (Instr.encTxbufR16K 0xC000 0).wf (tiered .k16) = false ∧ (Instr.encTxbufW16K 0xC000 0).wf (tiered .k16) = false
      ∧ (Instr.encRxbufR16K 0xBFFF 0).wf (tiered .k16) = false ∧ (Instr.encRxbufW16K 0xBFFF 0).wf (tiered .k16) = false := by
  decide

theorem test_wf_tier_checks :
    (Instr.encTxbufR2K 0x8000 0).wf (tiered .k4) = false ∧ (Instr.encTxbufW2K 0x8000 0).wf (tiered .k4) = false
      ∧ (Instr.encTxbufR4K 0x8000 0).wf .default = false ∧ (Instr.encTxbufW4K 0x8000 0).wf (tiered .k8) = false
      ∧ (Instr.encTxbufR8K 0x8000 0).wf .default = false ∧ (Instr.encTxbufW8K 0x8000 0).wf (tiered .k16) = false
      ∧ (Instr.encTxbufR16K 0x8000 0).wf .default = false ∧ (Instr.encTxbufW16K 0x8000 0).wf (tiered .k8) = false
      ∧ (Instr.encRxbufR2K 0xC000 0).wf (tiered .k4) = false ∧ (Instr.encRxbufW2K 0xC000 0).wf (tiered .k4) = false
      ∧ (Instr.encRxbufR4K 0xC000 0).wf .default = false ∧ (Instr.encRxbufW4K 0xC000 0).wf (tiered .k8) = false
      ∧ (Instr.encRxbufR8K 0xC000 0).wf .default = false ∧ (Instr.encRxbufW8K 0xC000 0).wf (tiered .k16) = false
      ∧ (Instr.encRxbufR16K 0xC000 0).wf .default = false ∧ (Instr.encRxbufW16K 0xC000 0).wf (tiered .k8) = false := by
  decide

theorem test_wf_payload_check : (Instr.wr 0x0001 2 [0xC0]).wf .default = false := by decide

/-! ### The encoder's port (sections 2.1 to 2.3) -/

/-- The port's output, if the row gives one. -/
def hdrOf (i : Instr) (s : State) : Option Frame := (nextOf (exec i s)).map fun t => t.enc.hdr

theorem test_encoder_registers :
    hdrOf (.encCommonR 0x0039 7) State.reset = some ⟨0x00, 0x39, 0x00⟩
      ∧ hdrOf (.encCommonW 0x00FF 0) State.reset = some ⟨0x00, 0xFF, 0x04⟩
      ∧ hdrOf (.encSockregR 0x0100 0) State.reset = some ⟨0x00, 0x00, 0x28⟩
      ∧ hdrOf (.encSockregW 0x1301 5) State.reset = some ⟨0x00, 0x01, 0x6C⟩ := by decide

theorem test_encoder_2K_and_4K :
    hdrOf (.encTxbufR2K 0x8000 0) State.reset = some ⟨0x80, 0x00, 0x10⟩
      ∧ hdrOf (.encTxbufW2K 0xBFFF 0) State.reset = some ⟨0xBF, 0xFF, 0xF4⟩
      ∧ hdrOf (.encRxbufR2K 0xFFFF 0) State.reset = some ⟨0xFF, 0xFF, 0xF8⟩
      ∧ hdrOf (.encRxbufW2K 0xD123 0) State.reset = some ⟨0xD1, 0x23, 0x5C⟩
      ∧ hdrOf (.encTxbufR4K 0xA000 0) (fresh (tiered .k4) []) = some ⟨0xA0, 0x00, 0x50⟩
      ∧ hdrOf (.encTxbufW4K 0xBFFF 0) (fresh (tiered .k4) []) = some ⟨0xBF, 0xFF, 0x74⟩
      ∧ hdrOf (.encRxbufR4K 0xC000 0) (fresh (tiered .k4) []) = some ⟨0xC0, 0x00, 0x18⟩
      ∧ hdrOf (.encRxbufW4K 0xE000 0) (fresh (tiered .k4) []) = some ⟨0xE0, 0x00, 0x5C⟩ := by decide

theorem test_encoder_8K_and_16K :
    hdrOf (.encTxbufR8K 0xBFFF 0) (fresh (tiered .k8) []) = some ⟨0xBF, 0xFF, 0x30⟩
      ∧ hdrOf (.encTxbufW8K 0x9000 0) (fresh (tiered .k8) []) = some ⟨0x90, 0x00, 0x14⟩
      ∧ hdrOf (.encRxbufR8K 0xF800 0) (fresh (tiered .k8) []) = some ⟨0xF8, 0x00, 0x38⟩
      ∧ hdrOf (.encRxbufW8K 0xD123 0) (fresh (tiered .k8) []) = some ⟨0xD1, 0x23, 0x1C⟩
      ∧ hdrOf (.encTxbufR16K 0xBFFF 0) (fresh (tiered .k16) []) = some ⟨0xBF, 0xFF, 0x10⟩
      ∧ hdrOf (.encTxbufW16K 0x8800 0) (fresh (tiered .k16) []) = some ⟨0x88, 0x00, 0x14⟩
      ∧ hdrOf (.encRxbufR16K 0xC000 0) (fresh (tiered .k16) []) = some ⟨0xC0, 0x00, 0x18⟩
      ∧ hdrOf (.encRxbufW16K 0xFFFF 0) (fresh (tiered .k16) []) = some ⟨0xFF, 0xFF, 0x1C⟩ := by decide

/-- Large buffers off with one socket: the tier is 2K, not 16K (section 2.3). -/
theorem test_encoder_small_buffers_one_socket :
    enc (({ Config.default with maxSockNum := 1 } : Config).tier) 0x8800 false = ⟨0x88, 0x00, 0x30⟩ := by decide

/-- The tier's row only: a block of another tier was not built with it (R6, R7). -/
theorem test_encoder_other_tier :
    refusalOf (exec (.encTxbufR4K 0x8000 0) State.reset) = some .tierNotConfigured := by decide

/-! ### Register access (sections 3.1 to 3.5, 4.7) -/

/-- Trace and `res_count` after one operation on a pinned block of configuration `c`. -/
def traceOf (c : Config) (answers : List Byte) (i : Instr) : Option (List Event × Half) :=
  (nextOf (exec i (pinned c answers))).map fun t => (t.trace, t.res.count)

def a5 (n : Nat) : List Byte := List.replicate n 0xA5

/-- Section 3.1, lengths 0 and 5: one burst. -/
theorem test_wr_short :
    traceOf .default (a5 8) (.wr 0x0001 0 []) = some ([.csLow, .xfer [0x00, 0x01, 0x04] (a5 3), .csHigh], 0)
      ∧ traceOf .default (a5 8) (.wr 0x0001 5 [0xC0, 0xA8, 0x01, 0x01, 0xFF])
        = some ([.csLow, .xfer [0x00, 0x01, 0x04, 0xC0, 0xA8, 0x01, 0x01, 0xFF] (a5 8), .csHigh], 5) := by decide

/-- Section 3.4: a transmit-buffer write of six bytes in the 4K tier, two bursts; and one past its partition, one frame. -/
theorem test_wr_long_and_past_partition :
    traceOf (tiered .k4) (a5 9) (.wr 0x9010 6 [0xDE, 0xAD, 0xBE, 0xEF, 0x01, 0x02])
        = some ([.csLow, .xfer [0x90, 0x10, 0x34] (a5 3),
            .xfer [0xDE, 0xAD, 0xBE, 0xEF, 0x01, 0x02] (a5 6), .csHigh], 6)
      ∧ traceOf (tiered .k4) (a5 8) (.wr 0x9FFE 5 [0x01, 0x02, 0x03, 0x04, 0x05])
        = some ([.csLow, .xfer [0x9F, 0xFE, 0x34, 0x01, 0x02, 0x03, 0x04, 0x05] (a5 8), .csHigh], 5) := by decide

/-- Section 3.2, lengths 0 and 2. -/
theorem test_rd_lengths :
    traceOf .default (a5 3) (.rd 0x0009 0) = some ([.csLow, .xfer [0x00, 0x09, 0x00] (a5 3), .csHigh], 0)
      ∧ traceOf .default (a5 3 ++ [0x11, 0x22]) (.rd 0x0009 2)
        = some ([.csLow, .xfer [0x00, 0x09, 0x00] (a5 3), .xfer [0x00, 0x00] [0x11, 0x22], .csHigh], 2) := by decide

/-- Section 3.4: a read at the top of the address space is not split and does not wrap. -/
theorem test_rd_at_top :
    traceOf .default (a5 3 ++ [0x11, 0x22]) (.rd 0xFFFF 2)
      = some ([.csLow, .xfer [0xFF, 0xFF, 0xF8] (a5 3), .xfer [0x00, 0x00] [0x11, 0x22], .csHigh], 2) := by decide

/-- BW1 and BW2. -/
theorem test_wr8 :
    traceOf .default wa (.wr8 0x0000 0x80) = some ([.csLow, .xfer [0x00, 0x00, 0x04, 0x80] wa, .csHigh], 1)
      ∧ traceOf .default wa (.wr8 0x1001 0x01) = some ([.csLow, .xfer [0x00, 0x01, 0x0C, 0x01] wa, .csHigh], 1) := by decide

/-- BR1, and a byte with its top bit set: widened with zeros. -/
theorem test_rd8 :
    (nextOf (exec (.rd8 0x0039) (pinned .default (ra 0x04)))).map (fun t => (t.trace, t.res.val)) = some (tr 0x39 0x04, 0x0004)
      ∧ (nextOf (exec (.rd8 0x0039) (pinned .default (ra 0xFF)))).map (fun t => t.res.val) = some 0x00FF := by decide

/-- WW1 and WW2. -/
theorem test_wr16 :
    traceOf .default (a5 5) (.wr16 0x0019 0xFFFA) = some ([.csLow, .xfer [0x00, 0x19, 0x04, 0xFF, 0xFA] (a5 5), .csHigh], 2)
      ∧ traceOf .default (a5 5) (.wr16 0x1025 0x1234)
        = some ([.csLow, .xfer [0x00, 0x25, 0x0C, 0x12, 0x34] (a5 5), .csHigh], 2) := by decide

/-- RW1 and RW2: the first byte received is the high half. -/
theorem test_rd16 :
    (nextOf (exec (.rd16 0x1026) (pinned .default (a5 3 ++ [0x01, 0x02])))).map (fun t => (t.trace, t.res.val))
        = some ([.csLow, .xfer [0x00, 0x26, 0x08] (a5 3), .xfer [0x00, 0x00] [0x01, 0x02], .csHigh], 0x0102)
      ∧ (nextOf (exec (.rd16 0x1026) (pinned .default (a5 3 ++ [0xFF, 0x00])))).map (fun t => t.res.val)
        = some 0xFF00 := by decide

/-- Section 4.7: refused as the first operation after block reset, and not after a failed INIT. -/
theorem test_refused_before_pin :
    refusalOf (exec (.wr8 0x0000 0x00) State.reset) = some .pinNotConfigured
      ∧ refusalOf (exec .verify State.reset) = some .pinNotConfigured
      ∧ (nextOf (exec (.wr8 0x0000 0x00) (pinned .default []))).isSome = true := by decide

/-- Section 4.7: three sockets are no configuration. -/
theorem test_refused_configuration :
    refusalOf (exec .init (State.resetWith { Config.default with maxSockNum := 3 })) = some .illegalConfiguration := by
  decide

/-! ### Chip select (section 3.5) -/

theorem test_cscfg :
    (nextOf (exec .csCfg State.reset)).map (fun t => (t.csOe, t.csN, t.trace))
      = some (true, true, [.csDirOut, .csHigh]) := by decide

theorem test_cslow_cshigh :
    (nextOf (exec .csLow (pinned .default []))).map (fun t => (t.csN, t.trace)) = some (false, [.csLow])
      ∧ (nextOf (exec .csHigh { pinned .default [] with csN := false })).map (fun t => (t.csN, t.trace))
        = some (true, [.csHigh])
      ∧ refusalOf (exec .csLow { pinned .default [] with csN := false }) = some .transactionAlreadyOpen
      ∧ refusalOf (exec .csHigh (pinned .default [])) = some .noTransactionOpen := by decide

/-! ### The chip controller (sections 4.1 to 4.5) -/

/-- SR3 and SRnz. -/
theorem test_softreset_clears :
    (nextOf (exec .softReset (pinned .default (resetAns [0x80, 0x80, 0x00])))).map (fun t => (t.trace, t.cause, t.pollCount))
        = some (tw 0x80 ++ tr 0x00 0x80 ++ [.delay 1] ++ tr 0x00 0x80 ++ [.delay 1] ++ tr 0x00 0x00, none, 2)
      ∧ (nextOf (exec .softReset (pinned .default (resetAns [0x01, 0x00])))).map (fun t => (t.trace, t.cause, t.pollCount))
        = some (tw 0x80 ++ tr 0x00 0x01 ++ [.delay 1] ++ tr 0x00 0x00, none, 1) := by decide

set_option maxRecDepth 10000 in
/-- SRF. -/
theorem test_softreset_times_out :
    (nextOf (exec .softReset (pinned .default (resetAns deadPolls)))).map (fun t => (t.trace, t.cause, t.pollCount))
      = some (tw 0x80 ++ (List.replicate 20 (tr 0x00 0x80 ++ [.delay 1])).flatten, some .resetTimeout, 20) := by decide

set_option maxRecDepth 10000 in
/-- V1 and V6. -/
theorem test_verify :
    (nextOf (exec .verify (pinned .default ideal))).map (fun t => (t.trace, t.res.ok)) = some (v1, true)
      ∧ (nextOf (exec .verify (pinned .default (ideal.dropLast ++ [0x03])))).map (fun t => (t.res.ok, t.cause, t.trace.length))
        = some (false, some .version, 32) := by decide

/-- V3 to V5. -/
theorem test_verify_sentinels :
    (nextOf (exec .verify (pinned .default (resetAns [0x00] ++ wa ++ ra 0x00)))).map (fun t => (t.trace, t.res.ok, t.cause))
        = some (tw 0x80 ++ tr 0x00 0x00 ++ tw 0x08 ++ tr 0x00 0x00, false, some .sentinel1)
      ∧ (nextOf (exec .verify (pinned .default (resetAns [0x00] ++ wa ++ ra 0x08 ++ wa ++ ra 0x00)))).map (fun t => (t.res.ok, t.cause))
        = some (false, some .sentinel2)
      ∧ (nextOf (exec .verify (pinned .default (resetAns [0x00] ++ wa ++ ra 0x08 ++ wa ++ ra 0x10 ++ wa ++ ra 0x10)))).map
          (fun t => (t.res.ok, t.cause)) = some (false, some .sentinel3) := by decide

set_option maxRecDepth 10000 in
/-- IN1 and IN2. -/
theorem test_init :
    (nextOf (exec .init (fresh .default ideal))).map (fun t => (t.trace, t.chipState, t.res.ok, t.csOe, t.csN, t.busOpen))
        = some ([.delay 560, .csDirOut, .csHigh, .busBegin] ++ v1 ++ [.busEnd], .operational, true, true, true, false)
      ∧ (nextOf (exec .init (broughtUp .default []))).map (fun t => (t.trace, t.res.ok)) = some ([], true) := by decide

set_option maxRecDepth 10000 in
/-- IN3: no chip on the bus. -/
theorem test_init_fails :
    (nextOf (exec .init (fresh .default (List.replicate 84 0xFF)))).map
        (fun t => (t.trace.length, t.chipState, t.res.ok, t.csOe && t.csN && !t.busOpen, t.pollCount))
      = some (108, .uninitialized, false, true, 20) := by decide

/-- PT-4, and PT-off. -/
theorem test_partition :
    (nextOf (exec .partition (pinned (tiered .k4) (a5 64)))).map (fun t => t.trace)
        = some (pw 0x1E 0x0C 0x04 ++ pw 0x1F 0x0C 0x04 ++ pw 0x1E 0x2C 0x04 ++ pw 0x1F 0x2C 0x04
          ++ pw 0x1E 0x4C 0x04 ++ pw 0x1F 0x4C 0x04 ++ pw 0x1E 0x6C 0x04 ++ pw 0x1F 0x6C 0x04
          ++ pw 0x1E 0x8C 0x00 ++ pw 0x1F 0x8C 0x00 ++ pw 0x1E 0xAC 0x00 ++ pw 0x1F 0xAC 0x00
          ++ pw 0x1E 0xCC 0x00 ++ pw 0x1F 0xCC 0x00 ++ pw 0x1E 0xEC 0x00 ++ pw 0x1F 0xEC 0x00)
      ∧ (nextOf (exec .partition (pinned .default []))).map (fun t => t.trace) = some [] := by decide

/-- LK1 and LK2. -/
theorem test_link :
    (nextOf (exec .link (broughtUp .default (ra 0xBF)))).map (fun t => (t.trace, t.res.link)) = some (tr 0x2E 0xBF, .up)
      ∧ (nextOf (exec .link (broughtUp .default (ra 0xBE)))).map (fun t => t.res.link) = some .down := by decide

set_option maxRecDepth 10000 in
/-- LK4, and LK5's Unknown on a chip that fails the first sentinel. -/
theorem test_link_runs_init :
    (nextOf (exec .link (fresh .default (ideal ++ ra 0xBF)))).map (fun t => (t.trace.length, t.res.link, t.chipState))
        = some (41, .up, .operational)
      ∧ (nextOf (exec .link (fresh .default (List.replicate 16 0x00)))).map (fun t => (t.trace.length, t.res.link, t.chipState))
        = some (19, .unknown, .uninitialized) := by decide

/-- EX1, and EX3's first poll: the whole byte is compared. -/
theorem test_exec :
    (nextOf (exec (.exec 3 0x01) (pinned .default (wa ++ ra 0x00)))).map (fun t => (t.trace, t.busy, t.phase))
        = some ([.csLow, .xfer [0x00, 0x01, 0x6C, 0x01] wa, .csHigh, .csLow, .xfer [0x00, 0x01, 0x68] (a5 3),
            .xfer [0x00] [0x00], .csHigh], false, .idle)
      ∧ (nextOf (exec (.exec 3 0x01) (pinned .default (wa ++ ra 0x40)))).map (fun t => (t.busy, t.phase, t.csN))
        = some (true, .exPoll, true) := by decide

/-- EX2's second poll, as a step of its own. -/
theorem test_exec_poll_step :
    (nextOf (step (polling (ra 0x00)))).map (fun t => (t.trace, t.busy, t.phase))
      = some ([.csLow, .xfer [0x00, 0x01, 0x68] (a5 3), .xfer [0x00] [0x00], .csHigh], false, .idle) := by decide

/-! ### The step -/

/-- A word at the port is taken off it and run; INIT is the first operation a reset block accepts. -/
theorem test_step_serves :
    (nextOf (step ((pinned .default (ra 0x04)).withFetchWord 4 0b0100))).map (fun t => (t.trace, t.offers))
        = some ([.csLow, .xfer [0x00, 0x00, 0x00] (a5 3), .xfer [0x00] [0x04], .csHigh], [])
      ∧ (nextOf (step (State.reset.withFetchWord 24 0x80F4))).isSome = false
      ∧ (nextOf (step (State.reset.withFetchWord 24 0xBFFFF4))).map (fun t => t.enc.hdr) = some ⟨0xBF, 0xFF, 0xF4⟩ := by decide

/-- A busy block leaves a host operation waiting and answers the encoder's port (R29, R131). -/
theorem test_step_busy :
    (nextOf (step { polling (ra 0x01) with offers := [encode .link] })).map (fun t => (t.busy, t.offers))
        = some (true, [encode .link])
      ∧ (nextOf (step { polling [] with offers := [.enc true 0x1301 5] })).map (fun t => (t.enc.hdr, t.drawn, t.trace))
        = some (⟨0x00, 0x01, 0x6C⟩, 0, []) := by decide

/-- A block that waits, a reserved code, a label at a port. -/
theorem test_step_idle_and_refusals :
    nextOf (step State.reset) = some State.reset
      ∧ refusalOf (step (State.reset.withFetchWord 4 0b0111)) = some (.reservedOpcode 0x7)
      ∧ refusalOf (step (State.reset.withFetchWord 3 0b011)) = some .microOperationAtPort
      ∧ refusalOf (step { State.reset with offers := [.frame 0x000001] }) = some (.rejected .frameNeverProduced) := by decide

/-! ### Names, text and the surrounding software (R93, R94, section 4.6) -/

theorem test_pseudo_operations :
    Config.default.wrSn8 3 0x01 0x01 = .wr8 0x1301 0x01 ∧ Config.default.rdMr = .rd8 0x0000
      ∧ (tiered .k4).wrTx 1 0x010 [0xDE, 0xAD, 0xBE, 0xEF, 0x01, 0x02] = some (.wr 0x9010 6 [0xDE, 0xAD, 0xBE, 0xEF, 0x01, 0x02])
      ∧ (tiered .k4).rdRx 1 0x010 4 = some (.rd 0xD010 4) ∧ (tiered .k4).rdRx 4 0x010 4 = none := by decide

theorem test_text :
    (Instr.wr 0x9010 2 [0xDE, 0xAD]).text = some "WR 0x9010, [0xDE 0xAD]".toList
      ∧ (Instr.exec 3 0x01).text = some "EXEC 3, 0x01".toList ∧ (Instr.rd 0xD010 4).text = some "RD 0xD010, 4".toList ∧ Instr.init.text = some "INIT".toList := by decide

/-- S8 and S9. -/
theorem test_facade :
    staticAddressing ⟨192, 168, 1, 50⟩ none none none = (⟨192, 168, 1, 1⟩, ⟨192, 168, 1, 1⟩, ⟨255, 255, 255, 0⟩)
      ∧ (staticAddressing ⟨172, 16, 5, 200⟩ (some ⟨8, 8, 8, 8⟩) none none).1 = ⟨8, 8, 8, 8⟩
      ∧ ({ } : FacadeParams).setRetransmissionTimeout 10000 = .wr16 0x0019 0xFFFA := by decide

/-- R88 on the frame `ENC.W 0x8801` of the 2K tier, socket 1, offset 1 (R54: socket 1 owns 0x8800 to 0x8FFF). -/
theorem test_buffer_offset : (⟨0x88, 0x01, 0x34⟩ : Frame).bufferOffset .k2 = 0x0001 := by decide

/-! ### Witnesses: a state and operands that meet the hypotheses of each statement -/

/-- FirstFrameByteByRegion, FramesSatisfyTheirInvariants and GoldenControlBytes: both ends of each region. -/
theorem witness_regions :
    region 0x0000 = .common ∧ region 0x00FF = .common ∧ region 0x0100 = .sockReg ∧ region 0x7FFF = .sockReg
      ∧ region 0x8000 = .txBuf ∧ region 0xBFFF = .txBuf ∧ region 0xC000 = .rxBuf ∧ region 0xFFFF = .rxBuf := by decide

/-- SocketRegisterAddressesAlias. -/
theorem witness_alias :
    region 0x0901 = .sockReg ∧ region 0x7901 = .sockReg
      ∧ (0x0901 : Half).extractLsb' 0 11 = (0x7901 : Half).extractLsb' 0 11 ∧ (0x0901 : Half) ≠ 0x7901 := by decide

/-- Every statement over a legal configuration; the two ends of the range of `SOCK_REG_BASE` for SocketRegisterComposer. -/
theorem witness_legal :
    Config.default.legal = true ∧ (tiered .k4).legal = true ∧ (tiered .k8).legal = true ∧ (tiered .k16).legal = true
      ∧ ({ Config.default with sockRegBase := 0x0800 } : Config).legal = true
      ∧ ({ Config.default with sockRegBase := 0x7800 } : Config).legal = true := by decide

/-- BufferComposers, ComposersAgreeWithEncoder, GoldenControlBytes: the last byte of the last socket of each tier. -/
theorem witness_composed :
    ∀ t : Tier, ∃ (s : BitVec 3) (off : Half), s.toNat < t.sockets ∧ off.toNat < t.ssize.toNat
      ∧ s.toNat + 1 = t.sockets ∧ off.toNat + 1 = t.ssize.toNat := by
  intro t
  cases t
  · exact ⟨7, 2047, by decide⟩
  · exact ⟨3, 4095, by decide⟩
  · exact ⟨1, 8191, by decide⟩
  · exact ⟨0, 16383, by decide⟩

/-- FrameDecodingInvertsEncoder: a canonical socket-register address; the premise is empty in the other regions. -/
theorem witness_canonical :
    region 0x1301 = .sockReg
      ∧ (0x1301 : Half) = Config.default.snAddr ((0x1301 : Half).extractLsb' 8 3) ((0x1301 : Half).extractLsb' 0 8) := by
  decide

/-- FrameDecoderAcceptsExactlyProducedFrames and DecodedInstructionsAreWellFormed: a frame accepted, a frame refused. -/
theorem witness_decoded :
    decode .default (.frame 0x00016C) = .ok (.encSockregW 0x1301 3)
      ∧ decode .default (.frame 0x000001) = .error .frameNeverProduced := by decide

/-- DecodeInvertsEncode: a well-formed term of every constructor. -/
theorem witness_well_formed :
    ([.encCommonR 0x0000 0, .encCommonW 0x00FF 7, .encSockregR 0x0100 0, .encSockregW 0x7FFF 5, .encTxbufR2K 0x8000 0,
        .encTxbufW2K 0xBFFF 7, .encRxbufR2K 0xC000 0, .encRxbufW2K 0xFFFF 7, .wr 0x0001 2 [0xC0, 0xA8], .rd 0xFFFF 0xFFFF,
        .wr8 0x0000 0x80, .rd8 0x0039, .wr16 0x0019 0xFFFA, .rd16 0x1026, .init, .link, .exec 7 0xFF, .verify,
        .reserved0, .reserved7, .reservedC, .reservedD, .reservedE, .reservedF, .csCfg, .csLow, .csHigh, .softReset,
        .partition] : List Instr).all (Instr.wf .default) = true
      ∧ ([.encTxbufR4K 0x8000 0, .encTxbufW4K 0xBFFF 0, .encRxbufR4K 0xC000 0, .encRxbufW4K 0xFFFF 0] : List Instr).all
          (Instr.wf (tiered .k4)) = true
      ∧ ([.encTxbufR8K 0x8000 0, .encTxbufW8K 0xBFFF 0, .encRxbufR8K 0xC000 0, .encRxbufW8K 0xFFFF 0] : List Instr).all
          (Instr.wf (tiered .k8)) = true
      ∧ ([.encTxbufR16K 0x8000 0, .encTxbufW16K 0xBFFF 0, .encRxbufR16K 0xC000 0, .encRxbufW16K 0xFFFF 0] : List Instr).all
          (Instr.wf (tiered .k16)) = true := by decide

/-- TierFollowsConfiguration and PartitionTableFillsTheChip: buffers off and on, with one socket and with eight. -/
theorem witness_configurations :
    (Config.default.legal = true ∧ Config.default.largeBuffers = false)
      ∧ ((tiered .k16).legal = true ∧ (tiered .k16).largeBuffers = true ∧ (tiered .k16).maxSockNum = 1)
      ∧ (tiered .k2).legal = true ∧ (tiered .k2).largeBuffers = true ∧ (tiered .k2).maxSockNum = 8 := by decide

/-- BlockResetValues: a legal block with nothing at its ports. -/
theorem witness_block_reset : (polling []).cfg.legal = true ∧ (polling []).offers = [] := by decide

/-- IllegalConfigurationIsRefused: a socket count and a stride (R9, R53) that are none of this hardware's. -/
theorem witness_illegal :
    (State.resetWith { Config.default with maxSockNum := 3 }).cfg.legal = false
      ∧ (State.resetWith { Config.default with sockRegStride := 0x0200 }).cfg.legal = false := by decide

/-- RegisterEncoderRowsGiveTheirFrame, TransmitEncoderRowsGiveTheirFrame and ReceiveEncoderRowsGiveTheirFrame: the ends of the
ranges, and a block of each tier. -/
theorem witness_encoder_rows :
    (0x00FF : Half).toNat < 0x0100 ∧ 0x0100 ≤ (0x0100 : Half).toNat ∧ (0x7FFF : Half).toNat < 0x8000
      ∧ 0x8000 ≤ (0x8000 : Half).toNat ∧ (0xBFFF : Half).toNat < 0xC000 ∧ 0xC000 ≤ (0xC000 : Half).toNat
      ∧ ∀ t ∈ tiers, (fresh (tiered t) []).cfg.legal = true ∧ (fresh (tiered t) []).cfg.tier = t := by decide

/-- StepRunsTheDecodedInstruction: an idle block and a host operation, a busy one and an encoder request, a refused word. -/
theorem witness_step :
    (decode .default (encode .init) = .ok .init ∧ (encode .init).format ≠ .uop ∧ State.reset.busy = false)
      ∧ (decode .default (.enc true 0x1301 5) = .ok (.encSockregW 0x1301 5) ∧ (PortWord.enc true 0x1301 5).format = .frame
        ∧ (polling []).busy = true)
      ∧ decode .default (.host ⟨0x1, 0, 0, 1, 0, []⟩) = .error .payloadLength := by decide

/-- MicroOperationsAreNotIssuable and ReservedCodesAreRefused. -/
theorem witness_refused_at_port :
    decodeHost (.opOnly 0x8) = .ok .init ∧ State.reset.cfg.legal = true ∧ State.reset.busy = false
      ∧ (Latches.opOnly 0x7).op ∈ [0x0, 0x7, 0xC, 0xD, 0xE, (0xF : BitVec 4)] := by decide

/-- BusyBlockAcceptsNoHostOperation: a busy block steps with an operation waiting; an operation that is none of R92's. -/
theorem witness_busy :
    (polling (ra 0x01)).cfg.legal = true ∧ (polling (ra 0x01)).busy = true
      ∧ (nextOf (step { polling (ra 0x01) with offers := [.host (.opOnly 0x9)] })).isSome = true
      ∧ Instr.link.format = .hostop
      ∧ ∀ c, exec .link (polling (ra 0x01)) ≠ .refused (.reservedOpcode c) := by
  refine ⟨by decide, by decide, by decide, by decide, ?_⟩
  intro c h
  cases h

/-- PinConfiguration, ChipSelectAssert (both clauses), ChipSelectDeassert. -/
theorem witness_chip_select :
    State.reset.cfg.legal = true ∧ State.reset.csOe = false
      ∧ (pinned .default []).csOe = true ∧ (pinned .default []).csN = true
      ∧ ({ pinned .default [] with csN := false } : State).csOe = true
      ∧ ({ pinned .default [] with csN := false } : State).csN = false := by decide

/-- Every statement over a ready block; `idle`. -/
theorem witness_ready : (pinned .default []).ready ∧ (pinned (tiered .k4) []).ready ∧ State.reset.idle := by
  unfold State.ready State.idle; decide

/-- ShortWriteIsOneBurst and LongWriteIsTwoBursts: lengths 0 and 5, 6 and 65535. -/
theorem witness_write_lengths :
    ([] : List Byte).length = (0 : Half).toNat ∧ (a5 5).length = (5 : Half).toNat ∧ (a5 6).length = (6 : Half).toNat
      ∧ (a5 65535).length = (65535 : Half).toNat ∧ (5 : Half).toNat ≤ 5 ∧ 5 < (6 : Half).toNat := by
  refine ⟨by decide, by decide, by decide, ?_, by decide, by decide⟩
  exact List.length_replicate

/-- WriteStreamIsFrameThenPayload, RegisterAccessFrame, WritesIgnoreWhatTheyReceive: each access answers a next state. -/
theorem witness_accesses :
    (∃ t, exec (.wr 0x0001 2 [0xC0, 0xA8]) (pinned .default []) = .next t)
      ∧ (∃ t, exec (.wr 0x0001 6 [1, 2, 3, 4, 5, 6]) (pinned .default []) = .next t)
      ∧ (∃ t, exec (.rd 0x0009 6) (pinned .default []) = .next t)
      ∧ (∃ t, exec (.wr8 0x0000 0x80) (pinned .default []) = .next t)
      ∧ (∃ t, exec (.rd8 0x0039) (pinned .default []) = .next t)
      ∧ (∃ t, exec (.wr16 0x0019 0xFFFA) (pinned .default []) = .next t)
      ∧ ∃ t, exec (.rd16 0x1026) (pinned .default []) = .next t :=
  ⟨⟨_, rfl⟩, ⟨_, rfl⟩, ⟨_, rfl⟩, ⟨_, rfl⟩, ⟨_, rfl⟩, ⟨_, rfl⟩, ⟨_, rfl⟩⟩

/-- BusOperationsNeedTheConfiguredPin. -/
theorem witness_unpinned : State.reset.idle ∧ State.reset.csOe = false := by unfold State.idle; decide

/-- SoftResetClearsAtFirstZero at its first, third and last read, SoftResetTimesOut. -/
theorem witness_soft_reset :
    (pinned .default (resetAns [0x00])).softResetClears 0 0
      ∧ (pinned .default (resetAns [0x80, 0x80, 0x00])).softResetClears 0 2
      ∧ (pinned .default (resetAns (List.replicate 19 0x80 ++ [0x00]))).softResetClears 0 19
      ∧ (pinned .default (resetAns deadPolls)).softResetFails 0 := by
  unfold State.softResetClears State.softResetFails; decide

/-- VerifySucceeds and InitSucceeds, with buffers off and on; the block of InitSucceeds has its latch clear. -/
theorem witness_verifies :
    (pinned .default ideal).verifies 0 0 ∧ (fresh (tiered .k4) ideal).verifies 0 0
      ∧ (fresh (tiered .k4) ideal).chipState ≠ .operational ∧ (tiered .k4).largeBuffers = true := by
  unfold State.verifies State.softResetClears; decide

/-- VerifyFailsAtFirstMismatch and InitFailsClean: all five causes. -/
theorem witness_fails :
    (∃ ev n p, (pinned .default (resetAns deadPolls)).failsAs 0 .resetTimeout ev n p)
      ∧ (∃ ev n p, (pinned .default (List.replicate 16 0x00)).failsAs 0 .sentinel1 ev n p)
      ∧ (∃ ev n p, (pinned .default (resetAns [0x00] ++ wa ++ ra 0x08 ++ wa ++ ra 0x00)).failsAs 0 .sentinel2 ev n p)
      ∧ (∃ ev n p, (pinned .default (resetAns [0x00] ++ wa ++ ra 0x08 ++ wa ++ ra 0x10 ++ wa ++ ra 0x10)).failsAs
          0 .sentinel3 ev n p)
      ∧ ∃ ev n p, (pinned .default (ideal.dropLast ++ [0x03])).failsAs 0 .version ev n p := by
  refine ⟨⟨_, _, _, ?_, rfl, rfl, rfl⟩, ⟨_, _, _, 0, ?_, ?_, rfl, rfl, rfl⟩, ⟨_, _, _, 0, ?_, ?_, ?_, rfl, rfl, rfl⟩,
    ⟨_, _, _, 0, ?_, ?_, ?_, ?_, rfl, rfl, rfl⟩, ⟨_, _, _, 0, ?_, ?_, ?_, ?_, ?_, rfl, rfl, rfl⟩⟩
  all_goals (try unfold State.softResetFails); (try unfold State.softResetClears); decide

/-- PartitionWritesTheSizeRegisters, both clauses. -/
theorem witness_partition :
    (pinned .default []).cfg.largeBuffers = false ∧ (pinned (tiered .k16) []).cfg.largeBuffers = true
      ∧ (pinned (tiered .k16) []).cfg.legal = true ∧ (pinned (tiered .k16) []).csOe = true := by decide

/-- InitIsIdempotent and LinkReadsLive: the latch set, the link up and down. -/
theorem witness_operational :
    (broughtUp .default (ra 0xBF)).idle ∧ (broughtUp .default (ra 0xBF)).chipState = .operational
      ∧ (broughtUp .default (ra 0xBF)).oracle 3 &&& 0x01 ≠ 0x00
      ∧ (broughtUp .default (ra 0xBE)).oracle 3 &&& 0x01 = 0x00 := by unfold State.idle; decide

set_option maxRecDepth 10000 in
/-- LinkRunsInit: an INIT that succeeds, and one that fails. -/
theorem witness_link_runs_init :
    (fresh .default ideal).chipState ≠ .operational
      ∧ (nextOf (exec .init (fresh .default ideal))).map (fun t => t.res.ok) = some true
      ∧ (nextOf (exec .init (fresh .default (List.replicate 16 0x00)))).map (fun t => t.res.ok) = some false := by decide

/-- ExecEndsAtFirstZeroPoll and ExecStaysBusyOnNonZeroPoll. -/
theorem witness_exec :
    (pinned .default (wa ++ ra 0x00)).oracle 7 = 0x00 ∧ (pinned .default (wa ++ ra 0x40)).oracle 7 ≠ 0x00 := by decide

/-- ExecSpinsWhileNonZero for two polls, and ExecCompletesWhenTheChipClears at the third; at the first; with nothing at the
ports, and with an encoder request, a frame and a waiting host operation. -/
theorem witness_spinning :
    (polling (ra 0x01 ++ ra 0x40 ++ ra 0x00)).spinning
      ∧ (∀ j < 2, (polling (ra 0x01 ++ ra 0x40 ++ ra 0x00)).oracle (0 + 4 * j + 3) ≠ 0x00)
      ∧ (polling (ra 0x01 ++ ra 0x40 ++ ra 0x00)).oracle (0 + 4 * 2 + 3) = 0x00
      ∧ (polling (ra 0x00)).oracle (0 + 4 * 0 + 3) = 0x00
      ∧ (polling []).portsHold [] []
      ∧ { polling [] with offers := [.enc false 0x0039 0, .frame 0x00016C, .host (.opOnly 0x9)] }.portsHold
          [.enc false 0x0039 0, .frame 0x00016C] [.host (.opOnly 0x9)] := by
  refine ⟨by unfold State.spinning; decide, by decide, by decide, by decide, ⟨rfl, nofun, nofun⟩, rfl, ?_, ?_⟩
  · intro w hw
    simp only [List.mem_cons, List.not_mem_nil, or_false] at hw
    rcases hw with rfl | rfl
    · exact ⟨rfl, _, rfl⟩
    · exact ⟨rfl, _, rfl⟩
  · intro w hw
    cases hw
    decide

/-- OnlyInitMovesChipStateAndLock. -/
theorem witness_not_init :
    (∃ t, exec .csCfg State.reset = .next t) ∧ (∃ t, exec .verify (pinned .default ideal) = .next t)
      ∧ Instr.csCfg ≠ .init ∧ Instr.csCfg ≠ .link ∧ Instr.verify ≠ .csCfg := ⟨⟨_, rfl⟩, ⟨_, rfl⟩, by decide⟩

/-- EveryStepKeepsTheInvariant, EveryStepKeepsTheTraceFaithful, StepsAreMonotone: reset and a block in an EXEC's poll loop
meet the invariant, the trace of both is faithful, and both step. -/
theorem witness_invariant :
    (BlockInv State.reset ∧ Faithful State.reset ∧ ∃ t, step State.reset = .next t)
      ∧ ∃ s : State, s.busy = true ∧ s.csOe = true ∧ s.chipState = .operational ∧ BlockInv s ∧ Faithful s
        ∧ ∃ t, step s = .next t := by
  refine ⟨⟨?_, rfl, _, rfl⟩, { polling [] with chipState := .operational, trace := [.csDirOut, .csHigh] },
    rfl, rfl, rfl, ?_, rfl, _, rfl⟩ <;> unfold BlockInv <;> decide

end Sys2Proof.Tests
end

section
/-! The address space of spec 20_memory.md. -/

namespace Sys2Proof

/-- Settles O1: `region_eq_common`, `region_eq_sockReg`, `region_eq_txBuf` and `region_eq_rxBuf` say the four ranges as
comparisons of words, which `BitVec.lt_def` and `BitVec.le_def` turn into comparisons of numbers; the named boundary
addresses are computed. -/
theorem regionsAreHalfOpenRanges : Obligations.RegionsAreHalfOpenRanges := by
  unfold Obligations.RegionsAreHalfOpenRanges
  constructor
  · intro a
    rw [region_eq_common, region_eq_sockReg, region_eq_txBuf, region_eq_rxBuf]
    simp [BitVec.lt_def, BitVec.le_def]
  · decide

end Sys2Proof
end

section
/-! The register accesses of spec 42_register_access.md. -/

namespace Sys2Proof.Machine

/-- A ready block accepts a host operation, whether or not it needs the pin. -/
theorem hostOp_of_ready {s : State} (h : s.ready) (p : Bool) (k : State → State) : hostOp s p k = .next (k s) := by
  obtain ⟨hlegal, hbusy, hpin⟩ := h
  exact hostOp_next.mpr ⟨hlegal, hbusy, fun _ => hpin, rfl⟩

/-- A write of at most `COALESCE_MAX` bytes: one burst inside the chip-select pair (R153). -/
theorem writeTrace_of_le {p : List Byte} (h : p.length ≤ 5) (s : State) (f : Frame) (i : Nat) :
    writeTrace s f p i = [.csLow] ++ [.xfer (f.bytes ++ p) (s.received i (3 + p.length))] ++ [.csHigh] := by
  simp [writeTrace, h]

/-- A longer write: the header burst and the payload burst inside the same chip-select pair (R153). -/
theorem writeTrace_of_gt {p : List Byte} (h : 5 < p.length) (s : State) (f : Frame) (i : Nat) :
    writeTrace s f p i =
      [.csLow] ++ [.xfer f.bytes (s.received i 3), .xfer p (s.received (i + 3) p.length)] ++ [.csHigh] := by
  simp [writeTrace, Nat.not_le.mpr h]

/-- All that an accepted WR shows at the ports is its write transaction. -/
theorem wr_trace {s t : State} {addr len : Half} {wbuf : List Byte} (h : exec (.wr addr len wbuf) s = .next t) :
    t.trace = s.trace ++ writeTrace s (enc s.cfg.tier addr true) wbuf s.drawn := by
  rw [exec, execWr, hostOp_next] at h
  obtain ⟨-, -, -, rfl⟩ := h
  rw [busWrite_eq]
  rfl

/-- Settles O35: `wr_trace` gives the events, and the split at `COALESCE_MAX` gives the bursts; either way the bytes sent are
the frame and then the payload. -/
theorem writeStreamIsFrameThenPayload : Obligations.WriteStreamIsFrameThenPayload := by
  unfold Obligations.WriteStreamIsFrameThenPayload
  intro s t addr len wbuf hlen hexec
  rw [wr_trace hexec, ← hlen]
  by_cases h : wbuf.length ≤ 5
  · rw [writeTrace_of_le h, ← List.append_assoc, ← List.append_assoc]
    exact ⟨_, rfl, by simp [sentBytes], fun _ => ⟨_, rfl⟩, fun h5 => absurd h (Nat.not_le.mpr h5)⟩
  · rw [writeTrace_of_gt (Nat.not_le.mp h), ← List.append_assoc, ← List.append_assoc]
    exact ⟨_, rfl, by simp [sentBytes], fun h5 => absurd h5 h, fun _ => ⟨_, _, rfl⟩⟩

/-- Settles O36: a ready block accepts both, whatever the answers; the count is the operand `len` itself, and `rbuf` is the
`len` answers that `busRead_eq` names. -/
theorem accessesReturnTheirLength : Obligations.AccessesReturnTheirLength := by
  unfold Obligations.AccessesReturnTheirLength
  intro s addr len hready
  constructor
  · intro wbuf _
    rw [exec, execWr, hostOp_of_ready hready]
    exact ⟨_, rfl, by simp⟩
  · rw [exec, execRd, hostOp_of_ready hready]
    exact ⟨_, rfl, by simp, by simp [busRead_eq, received_length]⟩

end Sys2Proof.Machine
end

section
/-! The invariant between steps (spec 10_state.md R38, 40_chip_select.md R114, R115, 43_chip_controller.md R190) and the
faithful trace (20_memory.md R62, R65): what each kind of step of `step_cases` keeps. -/

namespace Sys2Proof.Machine

/-- A faithful trace stays faithful when what it grows by, as received, is what was drawn meanwhile. -/
theorem Faithful.append {s t : State} {ev : List Event} {n : Nat} (h : Faithful s)
    (hbrought : receivedBytes ev = s.received s.drawn n) (hanswers : t.answers = s.answers)
    (hdrawn : t.drawn = s.drawn + n) (htrace : receivedBytes t.trace = receivedBytes s.trace ++ receivedBytes ev) :
    Faithful t := by
  unfold Faithful at *
  rw [htrace, h, hbrought, hdrawn, received_congr hanswers, received_add, Nat.zero_add]

/-- The view after the sequence of an INIT and the reads behind it: settle, pin, lock, a stretch on the bus, unlock (R182). -/
theorem portView_broughtUp {tr ev ev' : List Event} {oe : Bool} (u : Nat)
    (h : portView tr = some ⟨if oe then .high else .undriven, false⟩) (hev : Quiet ev) (hev' : Quiet ev') :
    portView (tr ++ [.delay u, .csDirOut, .csHigh, .busBegin] ++ ev ++ [.busEnd] ++ ev') = some ⟨.high, false⟩ := by
  have entered : portView (tr ++ [.delay u, .csDirOut, .csHigh, .busBegin]) = some ⟨.high, true⟩ := by
    unfold portView at *
    rw [List.foldlM_append, h]
    cases oe <;> rfl
  have closed : portView (tr ++ [.delay u, .csDirOut, .csHigh, .busBegin] ++ ev ++ [.busEnd]) = some ⟨.high, false⟩ := by
    have held := portView_append_quiet entered hev
    unfold portView at *
    rw [List.foldlM_append, held]
    rfl
  exact portView_append_quiet closed hev'

/-- An operation on the bus keeps the invariant, whether it ends or stays in an EXEC's poll loop. -/
theorem Did.keeps_inv {s t : State} {ev : List Event} {n : Nat} (d : Did s t ev n) (hi : BlockInv s)
    (hpin : s.csOe = true)
    (ends : t.busy = false ∧ t.phase = .idle ∨ t.busy = true ∧ t.phase = .exPoll ∧ t.latch.op = 0xA) : BlockInv t := by
  obtain ⟨hlegal, hbus, -, hchip, -, -, -, hview⟩ := hi
  have hview' : portView (s.trace ++ ev) = some ⟨.high, false⟩ :=
    portView_append_quiet (by simpa [hpin] using hview) d.quiet
  have hcsOe : t.csOe = true := by rw [d.changed]; exact hpin
  refine ⟨?_, ?_, ?_, ?_, fun _ => hcsOe, ?_, ?_, ?_⟩
  · rw [d.changed]; exact hlegal
  · rw [d.changed]; exact hbus
  · intro _; rw [d.changed]
  · rw [d.changed]; exact hchip
  · rcases ends with ⟨-, hphase⟩ | ⟨hbusy, -, -⟩
    · exact fun _ => hphase
    · simp [hbusy]
  · rcases ends with ⟨hbusy, -⟩ | ⟨-, hphase, hop⟩
    · simp [hbusy]
    · exact fun _ => ⟨hop, hphase, hcsOe⟩
  · rw [hcsOe, d.changed]; exact hview'

/-- INIT and LINK keep the invariant, with the latch set and with the latch clear. -/
theorem BroughtUp.keeps_inv {s t : State} (b : BroughtUp s t) (hi : BlockInv s) : BlockInv t := by
  obtain ⟨hlegal, hbus, hcs, -, hpin, -, -, hview⟩ := hi
  have ended : t.phase = .idle ∧ (t.busy = true → t.latch.op = 0xA ∧ t.phase = .exPoll ∧ t.csOe = true) :=
    ⟨b.phase, by simp [b.busy]⟩
  rcases b.did with ⟨hset, ev, n, hquiet, -, hlevel, ht⟩ | ⟨ev, ev', n, hquiet, hquiet', -, hchip, -, ht⟩
  · have hcsOe : t.csOe = true := by rw [ht]; exact hpin hset
    have hview' : portView (s.trace ++ ev) = some ⟨.high, false⟩ :=
      portView_append_quiet (by simpa [hpin hset] using hview) hquiet
    refine ⟨?_, ?_, fun _ => ?_, .inr ?_, fun _ => hcsOe, fun _ => ended.1, ended.2, ?_⟩
    · rw [ht]; exact hlegal
    · rw [ht]; exact hbus
    · rcases hlevel with ⟨-, hkept⟩ | hhigh
      · rw [hkept]; exact hcs (hpin hset)
      · exact hhigh
    · rw [ht]; exact hset
    · rw [hcsOe, ht]; exact hview'
  · have hview' := portView_broughtUp s.cfg.resetSettleUnits hview hquiet hquiet'
    refine ⟨?_, ?_, fun _ => ?_, hchip.symm, fun _ => ?_, fun _ => ended.1, ended.2, ?_⟩
    · rw [ht]; exact hlegal
    all_goals rw [ht]
    exact hview'

/-- Settles O57: `step_cases` gives the kinds of step; waiting and the encoder's port touch nothing that the invariant
speaks of, and `Did.keeps_inv` and `BroughtUp.keeps_inv` are the others. -/
theorem everyStepKeepsTheInvariant : Obligations.EveryStepKeepsTheInvariant := by
  unfold Obligations.EveryStepKeepsTheInvariant
  intro s t hi hstep
  cases step_cases hi hstep with
  | waits h => exact h ▸ hi
  | encodes e rest h => rw [h]; exact hi
  | accesses rest ev n pin d ends => exact d.keeps_inv hi pin ends
  | inits rest h => exact (init_broughtUp h).keeps_inv hi
  | links rest h => exact (link_broughtUp h).keeps_inv hi

theorem Did.keeps_faithful {s t : State} {ev : List Event} {n : Nat} (d : Did s t ev n) (h : Faithful s) :
    Faithful t := by
  refine h.append d.brought ?_ ?_ ?_ <;> rw [d.changed]
  exact receivedBytes_append s.trace ev

theorem BroughtUp.keeps_faithful {s t : State} (b : BroughtUp s t) (h : Faithful s) : Faithful t := by
  rcases b.did with ⟨-, ev, n, -, hbrought, -, ht⟩ | ⟨ev, ev', n, -, -, hbrought, -, -, ht⟩
  · refine h.append hbrought ?_ ?_ ?_ <;> rw [ht]
    exact receivedBytes_append s.trace ev
  · refine h.append hbrought ?_ ?_ ?_ <;> rw [ht]
    simp [receivedBytes]

/-- Settles O58: `step_cases` again; what each kind of step adds to the trace as received is what it drew. -/
theorem everyStepKeepsTheTraceFaithful : Obligations.EveryStepKeepsTheTraceFaithful := by
  unfold Obligations.EveryStepKeepsTheTraceFaithful
  refine ⟨rfl, fun s t hi hf hstep => ?_⟩
  cases step_cases hi hstep with
  | waits h => exact h ▸ hf
  | encodes e rest h => rw [h]; exact hf
  | accesses rest ev n pin d ends => exact d.keeps_faithful hf
  | inits rest h => exact (init_broughtUp h).keeps_faithful hf
  | links rest h => exact (link_broughtUp h).keeps_faithful hf

/-- From `s` to `t` nothing that a block keeps for its life was undone: the configuration, the answers, the latch once set,
the pin once an output, the events so far (R23, R31, R38). -/
def Grows (s t : State) : Prop :=
  t.cfg = s.cfg ∧ t.answers = s.answers
    ∧ (s.chipState = .operational → t.chipState = .operational)
    ∧ (s.csOe = true → t.csOe = true)
    ∧ s.drawn ≤ t.drawn
    ∧ ∃ ev, t.trace = s.trace ++ ev

theorem Grows.refl (s : State) : Grows s s :=
  ⟨rfl, rfl, id, id, Nat.le_refl _, [], (List.append_nil _).symm⟩

theorem Did.grows {s t : State} {ev : List Event} {n : Nat} (d : Did s t ev n) : Grows s t := by
  rw [d.changed]
  exact ⟨rfl, rfl, id, id, Nat.le_add_right .., _, rfl⟩

theorem BroughtUp.grows {s t : State} (b : BroughtUp s t) : Grows s t := by
  rcases b.did with ⟨-, ev, n, -, -, -, ht⟩ | ⟨ev, ev', n, -, -, -, -, hclear, ht⟩
  · rw [ht]
    exact ⟨rfl, rfl, id, id, Nat.le_add_right .., _, rfl⟩
  · rw [ht]
    refine ⟨rfl, rfl, fun hset => absurd hset hclear, fun _ => rfl, Nat.le_add_right .., ?_⟩
    simp only [List.append_assoc]
    exact ⟨_, rfl⟩

/-- Settles O59: every kind of step of `step_cases` only adds to the trace, and the one that moves `chip_state` starts with
the latch clear. -/
theorem stepsAreMonotone : Obligations.StepsAreMonotone := by
  unfold Obligations.StepsAreMonotone
  intro s t hi hstep
  cases step_cases hi hstep with
  | waits h => exact h ▸ Grows.refl s
  | encodes e rest h => rw [h]; exact Grows.refl s
  | accesses rest ev n pin d ends => exact d.grows
  | inits rest h => exact (init_broughtUp h).grows
  | links rest h => exact (link_broughtUp h).grows

/-- Settles O56: for every configuration block reset leaves the pin undriven and the trace empty, and the configuration is as given. -/
theorem invariantHoldsAtReset : Obligations.InvariantHoldsAtReset := by
  have reset : ∀ c : Config, c.legal = true → BlockInv (State.resetWith c) := fun c hlegal =>
    ⟨hlegal, rfl, nofun, .inl rfl, nofun, fun _ => rfl, nofun, rfl⟩
  exact ⟨reset .default (by decide), reset⟩

end Sys2Proof.Machine
end

section
/-! Which instructions move `chip_state` and the bus lock (spec 43_chip_controller.md R181, R190). -/

namespace Sys2Proof.Machine

/-- From `s` to `t` neither `chip_state` nor the bus lock moved, and no event of the lock was emitted. -/
def LeavesLock (s t : State) : Prop :=
  t.chipState = s.chipState ∧ t.busOpen = s.busOpen
    ∧ ∃ ev, t.trace = s.trace ++ ev ∧ .busBegin ∉ ev ∧ .busEnd ∉ ev

/-- Operations on the bus are quiet, and a quiet stretch holds no event of the lock. -/
theorem Did.leavesLock {s t : State} {ev : List Event} {n : Nat} (d : Did s t ev n) :
    LeavesLock s t ∧ t.csOe = s.csOe := by
  rw [d.changed]
  exact ⟨⟨rfl, rfl, ev, rfl, d.quiet.noBus⟩, rfl⟩

theorem LeavesLock.refl (s : State) : LeavesLock s s :=
  ⟨rfl, rfl, [], (List.append_nil _).symm, by simp⟩

/-- PARTITION is quiet in large-buffer mode and nothing without it (R185). -/
theorem partition_leavesLock (s : State) : LeavesLock s (partition s) ∧ (partition s).csOe = s.csOe := by
  cases hl : s.cfg.largeBuffers with
  | false => simp [partition, hl, LeavesLock.refl]
  | true =>
    have h := partition_large hl
    rw [h.moved]
    exact ⟨⟨rfl, rfl, _, rfl, h.quiet.noBus⟩, rfl⟩

theorem csLow_next {s t : State} (h : exec .csLow s = .next t) : t = s.selectChip := by
  rw [exec, execCsLow] at h
  split at h
  · cases h
  · exact (microOp_next.mp h).2.2

theorem csHigh_next {s t : State} (h : exec .csHigh s = .next t) : t = s.deselectChip := by
  rw [exec, execCsHigh] at h
  split at h
  · cases h
  · exact (microOp_next.mp h).2.2

/-- Settles O55: the operations on the bus by `Did.leavesLock`; PARTITION, the pin's three micro-operations and the
encoder's rows by what they emit; the reserved codes answer no next state. -/
theorem onlyInitMovesChipStateAndLock : Obligations.OnlyInitMovesChipStateAndLock := by
  unfold Obligations.OnlyInitMovesChipStateAndLock
  intro i s t h hinit hlink
  suffices key : LeavesLock s t ∧ (i ≠ .csCfg → t.csOe = s.csOe) by
    obtain ⟨⟨hchip, hbus, hev⟩, hpin⟩ := key
    exact ⟨hchip, hbus, hpin, hev⟩
  have of_did : (∃ ev n, Did s t ev n) → LeavesLock s t ∧ (i ≠ .csCfg → t.csOe = s.csOe) :=
    fun ⟨_, _, d⟩ => ⟨d.leavesLock.1, fun _ => d.leavesLock.2⟩
  cases i
  case init => exact absurd rfl hinit
  case link => exact absurd rfl hlink
  case wr | rd | wr8 | rd8 | wr16 | rd16 => obtain ⟨-, -, -, -, -, did⟩ := access_did (by simp) h; exact of_did did
  case verify => obtain ⟨-, -, -, -, -, did⟩ := verify_did h; exact of_did did
  case exec => obtain ⟨-, -, -, -, did⟩ := exec_did h; exact of_did did
  case softReset => obtain ⟨-, -, -, -, -, did⟩ := softReset_did h; exact of_did did
  case partition =>
    obtain ⟨-, -, rfl⟩ := microOp_next.mp h
    exact (partition_leavesLock s).imp_right fun hpin _ => hpin
  case csCfg =>
    obtain ⟨-, -, rfl⟩ := microOp_next.mp h
    exact ⟨⟨rfl, rfl, [.csDirOut, .csHigh], rfl, by simp⟩, fun hne => absurd rfl hne⟩
  case csLow => rw [csLow_next h]; exact ⟨⟨rfl, rfl, [.csLow], rfl, by simp⟩, fun _ => rfl⟩
  case csHigh => rw [csHigh_next h]; exact ⟨⟨rfl, rfl, [.csHigh], rfl, by simp⟩, fun _ => rfl⟩
  case reserved0 | reserved7 | reservedC | reservedD | reservedE | reservedF => cases h
  all_goals
    obtain ⟨-, -, rfl⟩ := encPort_next.mp h
    exact ⟨LeavesLock.refl s, fun _ => rfl⟩

end Sys2Proof.Machine
end

section
/-! The frame of an address, in one form for all regions and tiers (spec 41_encoder.md R125 to R130, 30_encoding.md R81 to
R88): `h2` is the control byte of a socket, a region and a direction, and every fact about its fields is one about control
bytes. -/

namespace Sys2Proof

/-! ### Bytes of a 16-bit word -/

theorem loByte_toNat (a : Half) : (loByte a).toNat = a.toNat % 256 := by
  simp [loByte, BitVec.extractLsb'_toNat]

theorem hiByte_toNat (a : Half) : (hiByte a).toNat = a.toNat / 256 := by
  simp only [hiByte, BitVec.extractLsb'_toNat, Nat.shiftRight_eq_div_pow]; omega

theorem loByte_eq_setWidth (a : Half) : loByte a = a.setWidth 8 :=
  (BitVec.setWidth_eq_extractLsb' (by decide)).symm

theorem append_toNat (x y : Byte) : (x ++ y : Half).toNat = x.toNat * 256 + y.toNat := by
  have h : (x ++ y : BitVec (8 + 8)).toNat = x.toNat <<< 8 + y.toNat := by
    rw [BitVec.toNat_append, ← Nat.shiftLeft_add_eq_or_of_lt (by omega)]
  exact h.trans (by rw [Nat.shiftLeft_eq])

@[simp] theorem hiByte_append_loByte (a : Half) : (hiByte a ++ loByte a : Half) = a := by
  apply BitVec.eq_of_toNat_eq
  rw [append_toNat, hiByte_toNat, loByte_toNat]; omega

/-- A mask of consecutive ones keeps a field where it stands. -/
theorem and_field (x k n : Nat) : x &&& (2 ^ k - 1) * 2 ^ n = x / 2 ^ n % 2 ^ k * 2 ^ n := by
  apply Nat.eq_of_testBit_eq
  intro i
  by_cases h : n ≤ i
  · simp [Nat.testBit_mul_two_pow, Nat.testBit_mod_two_pow, Nat.testBit_div_two_pow, h, Bool.and_comm]
  · simp [Nat.testBit_mul_two_pow, h]

/-! ### The regions as ranges of numbers -/

theorem region_common_iff (a : Half) : region a = .common ↔ a.toNat < 0x0100 := by
  rw [region_eq_common, BitVec.lt_def]; rfl

theorem region_sockReg_iff (a : Half) : region a = .sockReg ↔ 0x0100 ≤ a.toNat ∧ a.toNat < 0x8000 := by
  rw [region_eq_sockReg, BitVec.lt_def, BitVec.le_def]; rfl

theorem region_txBuf_iff (a : Half) : region a = .txBuf ↔ 0x8000 ≤ a.toNat ∧ a.toNat < 0xC000 := by
  rw [region_eq_txBuf, BitVec.lt_def, BitVec.le_def]; rfl

theorem region_rxBuf_iff (a : Half) : region a = .rxBuf ↔ 0xC000 ≤ a.toNat := by
  rw [region_eq_rxBuf, BitVec.le_def]; rfl

/-! ### The control byte -/

/-- The control byte of a socket, a region and a direction, `OM` zero (R82). -/
def controlByte (s : BitVec 3) (r : Region) (rw : Bool) : Byte := (s.setWidth 8 <<< 5) ||| baseMode r rw

/-- What R88 reads out of a control byte. -/
theorem controlByte_fields (s : BitVec 3) (r : Region) (rw : Bool) :
    (controlByte s r rw).extractLsb' 5 3 = s
      ∧ regionOfBits ((controlByte s r rw).extractLsb' 3 2) = r
      ∧ (controlByte s r rw).getLsbD 2 = rw
      ∧ (controlByte s r rw).extractLsb' 0 2 = 0
      ∧ controlByte s r rw &&& (0xE0 : Byte) = s.setWidth 8 <<< 5 := by
  revert s; cases r <;> cases rw <;> decide

/-- A byte whose `OM` is zero is the control byte of its own fields. -/
theorem eq_controlByte (b : Byte) (h : b.extractLsb' 0 2 = 0) :
    b = controlByte (b.extractLsb' 5 3) (regionOfBits (b.extractLsb' 3 2)) (b.getLsbD 2) := by
  revert b; decide

/-- The golden columns of R95, by socket. -/
theorem controlByte_golden (s : BitVec 3) :
    [0x08, 0x28, 0x48, 0x68, 0x88, 0xA8, 0xC8, 0xE8][s.toNat]? = some (controlByte s .sockReg false)
      ∧ [0x0C, 0x2C, 0x4C, 0x6C, 0x8C, 0xAC, 0xCC, 0xEC][s.toNat]? = some (controlByte s .sockReg true)
      ∧ [0x10, 0x30, 0x50, 0x70, 0x90, 0xB0, 0xD0, 0xF0][s.toNat]? = some (controlByte s .txBuf false)
      ∧ [0x14, 0x34, 0x54, 0x74, 0x94, 0xB4, 0xD4, 0xF4][s.toNat]? = some (controlByte s .txBuf true)
      ∧ [0x18, 0x38, 0x58, 0x78, 0x98, 0xB8, 0xD8, 0xF8][s.toNat]? = some (controlByte s .rxBuf false)
      ∧ [0x1C, 0x3C, 0x5C, 0x7C, 0x9C, 0xBC, 0xDC, 0xFC][s.toNat]? = some (controlByte s .rxBuf true) := by
  revert s; decide

/-- Settles O4: the mask of each tier keeps the field that holds the partition's index (`and_field`), and dividing is
shifting. -/
theorem socketBitsArePartitionIndex : Obligations.SocketBitsArePartitionIndex := by
  unfold Obligations.SocketBitsArePartitionIndex
  intro a
  refine ⟨loByte_eq_setWidth _, loByte_eq_setWidth _, loByte_eq_setWidth _, rfl, fun t => ?_⟩
  have h2 := and_field (a.toNat / 64) 3 5
  have h4 := and_field (a.toNat / 128) 2 5
  have h8 := and_field (a.toNat / 256) 1 5
  cases t <;> simp [sockBits, loByte_toNat, Nat.shiftRight_eq_div_pow, Tier.ssize] at * <;> omega

/-! ### The frame -/

/-- The socket that the frame of an address names: none in the common region, `addr[10:8]` in the socket registers, the
index of the partition in the buffers (R127, R130). -/
def frameSock (t : Tier) (a : Half) : BitVec 3 :=
  match region a with
  | .common => 0
  | .sockReg => a.extractLsb' 8 3
  | .txBuf | .rxBuf => BitVec.ofNat 3 (a.toNat % 16384 / t.ssize.toNat)

theorem partition_lt (t : Tier) (a : Half) : a.toNat % 16384 / t.ssize.toNat < t.sockets := by
  cases t <;> simp [Tier.ssize, Tier.sockets] <;> omega

theorem sockBits_eq (t : Tier) (a : Half) :
    sockBits t a = (BitVec.ofNat 3 (a.toNat % 16384 / t.ssize.toNat)).setWidth 8 <<< 5 := by
  apply BitVec.eq_of_toNat_eq
  have hlt := partition_lt t a
  have hsockets : t.sockets ≤ 8 := by cases t <;> decide
  obtain ⟨-, -, -, -, hindex⟩ := socketBitsArePartitionIndex a
  rw [hindex]
  simp [Nat.shiftLeft_eq]
  omega

theorem sockregBits_eq (a : Half) : loByte ((a >>> 3) &&& 0x00E0) = (a.extractLsb' 8 3).setWidth 8 <<< 5 := by
  apply BitVec.eq_of_toNat_eq
  have h := and_field (a.toNat / 8) 3 5
  simp [loByte_toNat, Nat.shiftRight_eq_div_pow, BitVec.extractLsb'_toNat, Nat.shiftLeft_eq] at *
  omega

@[simp] theorem enc_h1 (t : Tier) (a : Half) (rw : Bool) : (enc t a rw).h1 = loByte a := by
  unfold enc; split <;> rfl

theorem enc_h2 (t : Tier) (a : Half) (rw : Bool) :
    (enc t a rw).h2 = controlByte (frameSock t a) (region a) rw := by
  unfold enc frameSock controlByte
  cases region a with
  | common => simp [encCommon]
  | sockReg => simp only [encSockreg, sockregBits_eq]
  | txBuf => simp [encTxbuf, sockBits_eq]
  | rxBuf => simp [encRxbuf, sockBits_eq]

theorem enc_h0_register {t : Tier} {a : Half} {rw : Bool} (h : region a = .common ∨ region a = .sockReg) :
    (enc t a rw).h0 = 0x00 := by
  rcases h with h | h <;> simp [enc, h, encCommon, encSockreg]

theorem enc_h0_buffer {t : Tier} {a : Half} {rw : Bool} (h : region a = .txBuf ∨ region a = .rxBuf) :
    (enc t a rw).h0 = hiByte a := by
  rcases h with h | h <;> simp [enc, h, encTxbuf, encRxbuf]

/-- R88's `decode` of a frame the encoder made. -/
theorem enc_fields (t : Tier) (a : Half) (rw : Bool) :
    (enc t a rw).fields.sock = frameSock t a ∧ (enc t a rw).fields.region = region a
      ∧ (enc t a rw).fields.rw = rw ∧ (enc t a rw).fields.om = 0 := by
  obtain ⟨hsock, hregion, hrw, hom, -⟩ := controlByte_fields (frameSock t a) (region a) rw
  simp only [Frame.fields, enc_h2]
  exact ⟨hsock, hregion, hrw, hom⟩

/-- A buffer frame carries the address whole, and so does a frame of the common region. -/
theorem enc_offset {t : Tier} {a : Half} {rw : Bool} (h : region a ≠ .sockReg) : (enc t a rw).fields.offset = a := by
  simp only [Frame.fields, enc_h1]
  cases hr : region a with
  | sockReg => exact absurd hr h
  | common =>
    rw [enc_h0_register (.inl hr)]
    apply BitVec.eq_of_toNat_eq
    have := (region_common_iff a).mp hr
    rw [append_toNat, loByte_toNat]; simp; omega
  | txBuf => rw [enc_h0_buffer (.inl hr), hiByte_append_loByte]
  | rxBuf => rw [enc_h0_buffer (.inr hr), hiByte_append_loByte]

theorem topBits_toNat (a : Half) : ((hiByte a).extractLsb' 6 2).toNat = a.toNat / 16384 := by
  rw [BitVec.extractLsb'_toNat, hiByte_toNat, Nat.shiftRight_eq_div_pow]; omega

/-- `addr[15:14]` names the buffer regions (D8). -/
theorem region_txBuf_iff_topBits (a : Half) : region a = .txBuf ↔ (hiByte a).extractLsb' 6 2 = 0b10#2 := by
  rw [region_txBuf_iff, ← BitVec.toNat_inj, topBits_toNat]; simp; omega

theorem region_rxBuf_iff_topBits (a : Half) : region a = .rxBuf ↔ (hiByte a).extractLsb' 6 2 = 0b11#2 := by
  rw [region_rxBuf_iff, ← BitVec.toNat_inj, topBits_toNat]; simp; omega

theorem frameSock_common {t : Tier} {a : Half} (h : region a = .common) : frameSock t a = 0 := by
  simp [frameSock, h]

theorem frameSock_sockReg {t : Tier} {a : Half} (h : region a = .sockReg) : frameSock t a = a.extractLsb' 8 3 := by
  simp [frameSock, h]

theorem frameSock_buffer {t : Tier} {a : Half} (h : region a = .txBuf ∨ region a = .rxBuf) :
    frameSock t a = BitVec.ofNat 3 (a.toNat % 16384 / t.ssize.toNat) := by
  rcases h with h | h <;> simp [frameSock, h]

/-- Settles O2: the four arms of the encoder have the low byte in common (`enc_h1`). -/
theorem secondFrameByteIsAddressLow : Obligations.SecondFrameByteIsAddressLow := by
  unfold Obligations.SecondFrameByteIsAddressLow
  exact enc_h1

/-- Settles O3: the byte itself by the encoder's arms, its top bits by the range that each buffer region is. -/
theorem firstFrameByteByRegion : Obligations.FirstFrameByteByRegion := by
  unfold Obligations.FirstFrameByteByRegion
  intro t a rw
  refine ⟨enc_h0_register, enc_h0_buffer, fun h => ?_, fun h => ?_⟩
  · rw [enc_h0_buffer (.inl h), (region_txBuf_iff_topBits a).mp h]; rfl
  · rw [enc_h0_buffer (.inr h), (region_rxBuf_iff_topBits a).mp h]; rfl

/-- Settles O10: the fields by `enc_fields`, the address in a buffer frame by `enc_offset`, the socket by the index of its
partition. -/
theorem framesSatisfyTheirInvariants : Obligations.FramesSatisfyTheirInvariants := by
  unfold Obligations.FramesSatisfyTheirInvariants
  intro t a rw
  obtain ⟨hsock, hregion, hrw, hom⟩ := enc_fields t a rw
  refine ⟨hregion, hrw, hom, fun h => ?_, fun h => ?_, fun h => ?_⟩
  · exact ⟨hsock.trans (frameSock_common h), enc_h0_register (.inl h)⟩
  · exact ⟨hsock.trans (frameSock_sockReg h), enc_h0_register (.inr h)⟩
  · have hoffset : (enc t a rw).fields.offset = a := enc_offset (by rcases h with h | h <;> simp [h])
    have hlt := partition_lt t a
    have hindex : (enc t a rw).fields.sock.toNat = a.toNat % 16384 / t.ssize.toNat := by
      have hsockets : t.sockets ≤ 8 := by cases t <;> decide
      rw [hsock, frameSock_buffer h, BitVec.toNat_ofNat, Nat.mod_eq_of_lt (by omega)]
    exact ⟨hoffset, hindex, hindex ▸ hlt, by rw [Frame.bufferOffset_toNat, hoffset]⟩

/-- Settles O5: outside its low byte a socket-register frame depends on `addr[10:8]` alone. -/
theorem socketRegisterAddressesAlias : Obligations.SocketRegisterAddressesAlias := by
  unfold Obligations.SocketRegisterAddressesAlias
  refine ⟨fun t a b rw ha hb hab => ?_, fun t rw a ha => ?_⟩
  · have hmod : a.toNat % 2048 = b.toNat % 2048 := by simpa using congrArg BitVec.toNat hab
    have hlow : loByte a = loByte b := by
      apply BitVec.eq_of_toNat_eq
      rw [loByte_toNat, loByte_toNat]; omega
    have hsock : a.extractLsb' 8 3 = b.extractLsb' 8 3 := by
      apply BitVec.eq_of_toNat_eq
      rw [BitVec.extractLsb'_toNat, BitVec.extractLsb'_toNat, Nat.shiftRight_eq_div_pow, Nat.shiftRight_eq_div_pow]
      omega
    simp only [enc, ha, hb, encSockreg, sockregBits_eq, hlow, hsock]
  · simp only [List.mem_cons, List.not_mem_nil, or_false] at ha
    have hregion : region a = .sockReg := by rcases ha with rfl | rfl | rfl | rfl <;> decide
    simp only [enc, hregion]
    rcases ha with rfl | rfl | rfl | rfl <;> cases rw <;> decide

end Sys2Proof
end

section
/-! The address composers (spec 41_encoder.md R136, R137, R139; 30_encoding.md R95): what a composed address is, which region
and socket it lies in, and its frame. -/

namespace Sys2Proof

/-! ### Socket-register addresses -/

/-- The base of the socket registers is a multiple of 2048 between 0x0800 and 0x7800 (R9). -/
theorem Config.legal_base_toNat {c : Config} (h : c.legal = true) :
    c.sockRegBase.toNat % 2048 = 0 ∧ 0x0800 ≤ c.sockRegBase.toNat ∧ c.sockRegBase.toNat ≤ 0x7800 := by
  obtain ⟨haligned, hlow, hhigh⟩ := Config.legal_sockRegBase h
  refine ⟨?_, BitVec.le_def.mp hlow, BitVec.le_def.mp hhigh⟩
  rw [← Nat.and_two_pow_sub_one_eq_mod _ 11]
  exact congrArg BitVec.toNat haligned

theorem snAddr_toNat {c : Config} (h : c.legal = true) (s : BitVec 3) (off : Byte) :
    (c.snAddr s off).toNat = c.sockRegBase.toNat + s.toNat * 0x0100 + off.toNat := by
  obtain ⟨-, -, hhigh⟩ := Config.legal_base_toNat h
  rw [Config.legal_snAddr h]
  simp
  omega

theorem region_snAddr {c : Config} (h : c.legal = true) (s : BitVec 3) (off : Byte) :
    region (c.snAddr s off) = .sockReg := by
  obtain ⟨-, hlow, hhigh⟩ := Config.legal_base_toNat h
  rw [region_sockReg_iff, snAddr_toNat h]
  omega

theorem snAddr_sock {c : Config} (h : c.legal = true) (s : BitVec 3) (off : Byte) :
    (c.snAddr s off).extractLsb' 8 3 = s := by
  obtain ⟨haligned, -, -⟩ := Config.legal_base_toNat h
  apply BitVec.eq_of_toNat_eq
  rw [BitVec.extractLsb'_toNat, snAddr_toNat h, Nat.shiftRight_eq_div_pow]
  omega

theorem loByte_snAddr {c : Config} (h : c.legal = true) (s : BitVec 3) (off : Byte) :
    loByte (c.snAddr s off) = off := by
  obtain ⟨haligned, -, -⟩ := Config.legal_base_toNat h
  apply BitVec.eq_of_toNat_eq
  rw [loByte_toNat, snAddr_toNat h]
  omega

theorem enc_snAddr {c : Config} (h : c.legal = true) (t : Tier) (s : BitVec 3) (off : Byte) (rw : Bool) :
    enc t (c.snAddr s off) rw = ⟨0x00, off, controlByte s .sockReg rw⟩ := by
  have hregion := region_snAddr h s off
  simp only [enc, hregion, encSockreg, sockregBits_eq, loByte_snAddr h, snAddr_sock h, controlByte]

/-- The control bytes as R136 and R137 write them out. -/
theorem controlByte_written (s : BitVec 3) (rw : Bool) :
    controlByte s .sockReg rw = (s.setWidth 8 <<< 5) ||| 0x08 ||| (if rw then 0x04 else 0x00)
      ∧ controlByte s .txBuf rw = (s.setWidth 8 <<< 5) ||| 0x10 ||| (if rw then 0x04 else 0x00)
      ∧ controlByte s .rxBuf rw = (s.setWidth 8 <<< 5) ||| 0x18 ||| (if rw then 0x04 else 0x00) := by
  revert s; cases rw <;> decide

/-- Settles O6: base, socket and offset stand in separate bits, since the base is a multiple of 2048. -/
theorem socketRegisterComposer : Obligations.SocketRegisterComposer := by
  unfold Obligations.SocketRegisterComposer
  intro c t s off rw h
  exact ⟨snAddr_toNat h s off, snAddr_sock h s off, loByte_snAddr h s off,
    by rw [enc_snAddr h, (controlByte_written s rw).1]⟩

/-! ### Buffer addresses -/

/-- An address that is `off` bytes into the buffer of socket `s`, the buffers of its direction starting at `base`. -/
structure InBuffer (base : Nat) (t : Tier) (s : BitVec 3) (off a : Half) : Prop where
  base_eq : base = 0x8000 ∨ base = 0xC000
  sock_lt : s.toNat < t.sockets
  off_lt : off.toNat < t.ssize.toNat
  toNat : a.toNat = base + s.toNat * t.ssize.toNat + off.toNat

theorem inBuffer_txBase {t : Tier} {s : BitVec 3} {off : Half} (hs : s.toNat < t.sockets)
    (hoff : off.toNat < t.ssize.toNat) : InBuffer 0x8000 t s off (txBase t s + off) := by
  refine ⟨.inl rfl, hs, hoff, ?_⟩
  cases t <;> simp [txBase, Tier.ssize, Tier.sockets] at * <;> omega

theorem inBuffer_rxBase {t : Tier} {s : BitVec 3} {off : Half} (hs : s.toNat < t.sockets)
    (hoff : off.toNat < t.ssize.toNat) : InBuffer 0xC000 t s off (rxBase t s + off) := by
  refine ⟨.inr rfl, hs, hoff, ?_⟩
  cases t <;> simp [rxBase, Tier.ssize, Tier.sockets] at * <;> omega

section
variable {base : Nat} {t : Tier} {s : BitVec 3} {off a : Half} (h : InBuffer base t s off a)
include h

/-- The socket's buffers end with the 16 KiB of their direction. -/
theorem InBuffer.lt : s.toNat * t.ssize.toNat + off.toNat < 16384 := by
  have hs := h.sock_lt
  have hoff := h.off_lt
  cases t <;> simp [Tier.ssize, Tier.sockets] at * <;> omega

theorem InBuffer.mod : a.toNat % 16384 = s.toNat * t.ssize.toNat + off.toNat := by
  have hlt := h.lt
  rw [h.toNat]
  rcases h.base_eq with rfl | rfl <;> omega

theorem InBuffer.index : BitVec.ofNat 3 (a.toNat % 16384 / t.ssize.toNat) = s := by
  have hpos : 0 < t.ssize.toNat := by cases t <;> decide
  apply BitVec.eq_of_toNat_eq
  rw [h.mod, Nat.mul_comm, Nat.mul_add_div hpos, Nat.div_eq_of_lt h.off_lt, BitVec.toNat_ofNat]
  omega

theorem InBuffer.mod_ssize : a.toNat % t.ssize.toNat = off.toNat := by
  have hoff := h.off_lt
  rw [h.toNat]
  rcases h.base_eq with rfl | rfl <;> cases t <;> simp [Tier.ssize] at * <;> omega

theorem InBuffer.loByte : loByte a = off.extractLsb' 0 8 := by
  apply BitVec.eq_of_toNat_eq
  change (Sys2Proof.loByte a).toNat = (Sys2Proof.loByte off).toNat
  rw [loByte_toNat, loByte_toNat, h.toNat]
  rcases h.base_eq with rfl | rfl <;> cases t <;> simp [Tier.ssize] at * <;> omega

end

theorem InBuffer.region_txBuf {t : Tier} {s : BitVec 3} {off a : Half} (h : InBuffer 0x8000 t s off a) :
    region a = .txBuf := by
  have hlt := h.lt
  rw [region_txBuf_iff, h.toNat]
  omega

theorem InBuffer.region_rxBuf {t : Tier} {s : BitVec 3} {off a : Half} (h : InBuffer 0xC000 t s off a) :
    region a = .rxBuf := by
  rw [region_rxBuf_iff, h.toNat]
  omega

theorem InBuffer.enc_tx {t : Tier} {s : BitVec 3} {off a : Half} (h : InBuffer 0x8000 t s off a) (rw : Bool) :
    enc t a rw = ⟨a.extractLsb' 8 8, off.extractLsb' 0 8, controlByte s .txBuf rw⟩ := by
  simp only [enc, h.region_txBuf, encTxbuf, sockBits_eq, h.index, h.loByte, controlByte, hiByte]

theorem InBuffer.enc_rx {t : Tier} {s : BitVec 3} {off a : Half} (h : InBuffer 0xC000 t s off a) (rw : Bool) :
    enc t a rw = ⟨a.extractLsb' 8 8, off.extractLsb' 0 8, controlByte s .rxBuf rw⟩ := by
  simp only [enc, h.region_rxBuf, encRxbuf, sockBits_eq, h.index, h.loByte, controlByte, hiByte]

/-- R88's offset inside the buffer, read out of the frame, is the offset composed for. -/
theorem InBuffer.bufferOffset {base : Nat} {t : Tier} {s : BitVec 3} {off a : Half} (h : InBuffer base t s off a)
    (hregion : region a ≠ .sockReg) (rw : Bool) : (enc t a rw).bufferOffset t = off := by
  apply BitVec.eq_of_toNat_eq
  rw [Frame.bufferOffset_toNat, enc_offset hregion, h.mod_ssize]

/-- A socket's first byte is at offset 0. -/
theorem bufferBase_toNat {t : Tier} {s : BitVec 3} (hs : s.toNat < t.sockets) :
    (txBase t s).toNat = 0x8000 + s.toNat * t.ssize.toNat ∧ (rxBase t s).toNat = 0xC000 + s.toNat * t.ssize.toNat := by
  have hzero : (0#16).toNat < t.ssize.toNat := by cases t <;> decide
  exact ⟨by simpa using (inBuffer_txBase hs hzero).toNat, by simpa using (inBuffer_rxBase hs hzero).toNat⟩

/-- Settles O7: `InBuffer` says where the composed address lies, and its frame follows from the index and the offset. -/
theorem bufferComposers : Obligations.BufferComposers := by
  unfold Obligations.BufferComposers
  intro t s off rw hs hoff
  have htx := inBuffer_txBase hs hoff
  have hrx := inBuffer_rxBase hs hoff
  obtain ⟨-, hwtx, hwrx⟩ := controlByte_written s rw
  refine ⟨(bufferBase_toNat hs).1, (bufferBase_toNat hs).2, ?_, ?_, ?_, ?_⟩
  · rw [htx.enc_tx, hwtx]
  · rw [hrx.enc_rx, hwrx]
  · exact htx.bufferOffset (by simp [htx.region_txBuf]) rw
  · exact hrx.bufferOffset (by simp [hrx.region_rxBuf]) rw

/-! ### The frames of composed addresses -/

/-- Settles O8: `controlByte_fields` reads back what the control byte was made of. -/
theorem composersAgreeWithEncoder : Obligations.ComposersAgreeWithEncoder := by
  unfold Obligations.ComposersAgreeWithEncoder
  refine ⟨fun c t s off rw h => ?_, fun t s off rw hs hoff => ?_⟩
  · rw [enc_snAddr h]
    obtain ⟨hsock, hregion, hrw, -⟩ := controlByte_fields s .sockReg rw
    exact ⟨hsock, hregion, hrw⟩
  · rw [(inBuffer_txBase hs hoff).enc_tx, (inBuffer_rxBase hs hoff).enc_rx]
    obtain ⟨htsock, htregion, htrw, -⟩ := controlByte_fields s .txBuf rw
    obtain ⟨hrsock, hrregion, hrrw, -⟩ := controlByte_fields s .rxBuf rw
    exact ⟨htsock, htregion, htrw, hrsock, hrregion, hrrw⟩

/-- Settles O9: every control byte is `controlByte` of its socket, whose columns `controlByte_golden` gives. -/
theorem goldenControlBytes : Obligations.GoldenControlBytes := by
  unfold Obligations.GoldenControlBytes
  refine ⟨fun t a h => ?_, fun t a h => ?_, fun c t s off h => ?_, fun t s off hs hoff => ?_⟩
  · rw [enc_h2, enc_h2, frameSock_common h, h]
    decide
  · obtain ⟨hread, hwrite, -⟩ := controlByte_golden (a.extractLsb' 8 3)
    rw [enc_h2, enc_h2, frameSock_sockReg h, h]
    exact ⟨hread, hwrite⟩
  · obtain ⟨hread, hwrite, -⟩ := controlByte_golden s
    rw [enc_snAddr h, enc_snAddr h]
    exact ⟨hread, hwrite⟩
  · obtain ⟨-, -, hbuffers⟩ := controlByte_golden s
    have htx := inBuffer_txBase hs hoff
    have hrx := inBuffer_rxBase hs hoff
    rw [htx.enc_tx, htx.enc_tx, hrx.enc_rx, hrx.enc_rx]
    exact hbuffers

end Sys2Proof
end

section
/-! The decoder (spec 30_encoding.md R81 to R92): frames and their 24-bit numbers in both directions, and the words of every
port. -/

namespace Sys2Proof

/-! ### Frames -/

/-- The socket field of a buffer's control byte is the socket bits of the address (R88). -/
theorem sockBits_eq_controlByte {t : Tier} {a : Half} (h : region a = .txBuf ∨ region a = .rxBuf) (rw : Bool) :
    sockBits t a = controlByte (frameSock t a) (region a) rw &&& 0xE0 := by
  obtain ⟨-, -, -, -, hmask⟩ := controlByte_fields (frameSock t a) (region a) rw
  rw [hmask, sockBits_eq, frameSock_buffer h]

/-- Every frame of the encoder satisfies the invariants of R88. -/
theorem enc_produced (t : Tier) (a : Half) (rw : Bool) : (enc t a rw).produced t = true := by
  obtain ⟨hsock, hregion, -, hom⟩ := enc_fields t a rw
  unfold Frame.produced
  rw [hregion, hsock, hom, enc_h2]
  cases hr : region a with
  | common => simp [enc_h0_register (.inl hr), frameSock_common hr]
  | sockReg => simp [enc_h0_register (.inr hr)]
  | txBuf =>
    have hoffset : (enc t a rw).fields.offset = a := enc_offset (by simp [hr])
    have hbits := sockBits_eq_controlByte (t := t) (.inl hr) rw
    rw [hr] at hbits
    simp [enc_h0_buffer (.inl hr), (region_txBuf_iff_topBits a).mp hr, hoffset, hbits]
  | rxBuf =>
    have hoffset : (enc t a rw).fields.offset = a := enc_offset (by simp [hr])
    have hbits := sockBits_eq_controlByte (t := t) (.inr hr) rw
    rw [hr] at hbits
    simp [enc_h0_buffer (.inr hr), (region_rxBuf_iff_topBits a).mp hr, hoffset, hbits]

/-- The canonical address of a frame is the address it was made from, when that is one of the composed ones in the
socket-register region (log entry 10). -/
theorem canonicalAddr_enc {c : Config} {t : Tier} {a : Half} (rw : Bool)
    (h : region a = .sockReg → a = c.snAddr (a.extractLsb' 8 3) (a.extractLsb' 0 8)) :
    (enc t a rw).canonicalAddr c = a := by
  obtain ⟨hsock, hregion, -, -⟩ := enc_fields t a rw
  unfold Frame.canonicalAddr
  rw [hregion, hsock, enc_h1]
  cases hr : region a with
  | sockReg => rw [frameSock_sockReg hr]; exact (h hr).symm
  | common | txBuf | rxBuf => exact enc_offset (by simp [hr])

/-- Settles O12: the frame is one the block produces (`enc_produced`), `Frame.ofWord_word` takes it back out of its number,
and `canonicalAddr_enc` and `enc_fields` give back the request. -/
theorem frameDecodingInvertsEncoder : Obligations.FrameDecodingInvertsEncoder := by
  unfold Obligations.FrameDecodingInvertsEncoder
  intro c a rw _ hcanonical
  obtain ⟨-, -, hrw, -⟩ := enc_fields c.tier a rw
  simp only [decodeFrame, Frame.ofWord_word, enc_produced, canonicalAddr_enc rw hcanonical, hrw, if_true]

/-- The 24-bit number of the frame a number stands for is that number (R81). -/
theorem Frame.word_ofWord (w : BitVec 24) : (Frame.ofWord w).word = w := by
  apply BitVec.eq_of_toNat_eq
  simp only [Frame.word, Frame.ofWord]
  rw [toNat_append3, BitVec.extractLsb'_toNat, BitVec.extractLsb'_toNat, BitVec.extractLsb'_toNat,
    Nat.shiftRight_eq_div_pow, Nat.shiftRight_eq_div_pow, Nat.shiftRight_eq_div_pow]
  omega

/-- The invariants of R88, region by region. -/
theorem Frame.produced_iff (t : Tier) (f : Frame) :
    f.produced t = true ↔ f.fields.om = 0 ∧
      ((f.fields.region = .common ∧ f.h0 = 0 ∧ f.fields.sock = 0)
        ∨ (f.fields.region = .sockReg ∧ f.h0 = 0)
        ∨ (f.fields.region = .txBuf ∧ f.h0.extractLsb' 6 2 = 0b10#2 ∧ sockBits t f.fields.offset = f.h2 &&& 0xE0)
        ∨ (f.fields.region = .rxBuf ∧ f.h0.extractLsb' 6 2 = 0b11#2 ∧ sockBits t f.fields.offset = f.h2 &&& 0xE0)) := by
  unfold Frame.produced
  cases f.fields.region <;> simp

@[simp] theorem hiByte_append (x y : Byte) : hiByte (x ++ y) = x := by
  apply BitVec.eq_of_toNat_eq
  rw [hiByte_toNat, append_toNat]; omega

@[simp] theorem loByte_append (x y : Byte) : loByte (x ++ y) = y := by
  apply BitVec.eq_of_toNat_eq
  rw [loByte_toNat, append_toNat]; omega

theorem region_append_txBuf {x y : Byte} (h : x.extractLsb' 6 2 = 0b10#2) : region (x ++ y) = .txBuf := by
  rwa [region_txBuf_iff_topBits, hiByte_append]

theorem region_append_rxBuf {x y : Byte} (h : x.extractLsb' 6 2 = 0b11#2) : region (x ++ y) = .rxBuf := by
  rwa [region_rxBuf_iff_topBits, hiByte_append]

/-- The field `SOCK` of a byte whose `OM` is zero, where it stands. -/
theorem and_sockMask {b : Byte} (hom : b.extractLsb' 0 2 = 0) : b &&& (0xE0 : Byte) = (b.extractLsb' 5 3).setWidth 8 <<< 5 := by
  obtain ⟨-, -, -, -, hmask⟩ :=
    controlByte_fields (b.extractLsb' 5 3) (regionOfBits (b.extractLsb' 3 2)) (b.getLsbD 2)
  rwa [← eq_controlByte b hom] at hmask

/-- Such a byte is its socket field and the base mode of its region and direction (R82). -/
theorem and_sockMask_or_baseMode {b : Byte} {r : Region} (hom : b.extractLsb' 0 2 = 0)
    (hr : regionOfBits (b.extractLsb' 3 2) = r) : (b &&& (0xE0 : Byte)) ||| baseMode r (b.getLsbD 2) = b := by
  rw [and_sockMask hom, ← hr]
  exact (eq_controlByte b hom).symm

/-- The frame that satisfies the invariants is the encoder's, of its canonical address. -/
theorem enc_canonicalAddr {c : Config} {t : Tier} {f : Frame} (hl : c.legal = true) (h : f.produced t = true) :
    enc t (f.canonicalAddr c) f.fields.rw = f := by
  obtain ⟨h0, h1, h2⟩ := f
  rw [Frame.produced_iff] at h
  obtain ⟨hom, ⟨hr, rfl, hsock⟩ | ⟨hr, rfl⟩ | ⟨hr, htop, hbits⟩ | ⟨hr, htop, hbits⟩⟩ := h <;>
    simp only [Frame.canonicalAddr, hr] <;> simp only [Frame.fields] at *
  · have hregion : region ((0 : Byte) ++ h1) = .common := by
      rw [region_common_iff, append_toNat]; simp; omega
    have hmode : baseMode .common (h2.getLsbD 2) = h2 := by
      have hbyte := and_sockMask_or_baseMode hom hr
      rw [and_sockMask hom, hsock] at hbyte
      simpa using hbyte
    simp only [enc, hregion, encCommon, loByte_append, hmode]
  · rw [enc_snAddr hl, ← hr, ← eq_controlByte h2 hom]
  · simp only [enc, region_append_txBuf htop, encTxbuf, hiByte_append, loByte_append, hbits,
      and_sockMask_or_baseMode hom hr]
  · simp only [enc, region_append_rxBuf htop, encRxbuf, hiByte_append, loByte_append, hbits,
      and_sockMask_or_baseMode hom hr]

/-- Settles O11: `enc_canonicalAddr` gives the address of an accepted frame, `enc_produced` accepts the encoder's. -/
theorem frameDecoderAcceptsExactlyProducedFrames : Obligations.FrameDecoderAcceptsExactlyProducedFrames := by
  unfold Obligations.FrameDecoderAcceptsExactlyProducedFrames
  intro c w hl
  constructor
  · rintro ⟨i, hi⟩
    have hproduced : (Frame.ofWord w).produced c.tier = true := by
      by_contra hnot
      simp [decodeFrame, hnot] at hi
    exact ⟨_, _, by rw [enc_canonicalAddr hl hproduced, Frame.word_ofWord]⟩
  · rintro ⟨a, rw, rfl⟩
    simp [decodeFrame, enc_produced]

/-! ### The words of the ports -/

theorem loByte_setWidth (v : Byte) : loByte (v.setWidth 16) = v := by
  apply BitVec.eq_of_toNat_eq
  rw [loByte_toNat]; simp; omega

/-- Settles O13: an encoder row in its region and tier is the one that `encInstr` selects; a WR carries its `len` bytes; the
other words are computed. -/
theorem decodeInvertsEncode : Obligations.DecodeInvertsEncode := by
  unfold Obligations.DecodeInvertsEncode
  intro c i hwf
  cases i
  case encCommonR | encCommonW | encSockregR | encSockregW =>
    simp only [Instr.wf, beq_iff_eq] at hwf
    simp only [encode, decode, encInstr, hwf]
  case wr addr len wbuf =>
    simp only [Instr.wf] at hwf
    simp only [encode, decode, decodeHost, hwf]
    rfl
  case wr8 addr v => exact congrArg (fun b => Except.ok (Instr.wr8 addr b)) (loByte_setWidth v)
  case exec sock v => exact congrArg (fun b => Except.ok (Instr.exec sock b)) (loByte_setWidth v)
  case rd | rd8 | wr16 | rd16 | init | link | verify | reserved0 | reserved7 | reservedC | reservedD | reservedE
      | reservedF | csCfg | csLow | csHigh | softReset | partition => rfl
  all_goals
    simp only [Instr.wf, Bool.and_eq_true, beq_iff_eq] at hwf
    obtain ⟨hregion, htier⟩ := hwf
    simp only [encode, decode, encInstr, hregion, htier]

theorem decodeFrame_wf {c : Config} {w : BitVec 24} {i : Instr} (h : decodeFrame c w = .ok i) : i.wf c = true := by
  simp only [decodeFrame] at h
  split at h
  · cases h; exact encInstr_wf ..
  · cases h

/-- WR is the one host operation with a condition, and the decoder checks it (R22). -/
theorem decodeHost_wf {c : Config} {l : Latches} {i : Instr} (h : decodeHost l = .ok i) : i.wf c = true := by
  unfold decodeHost at h
  split at h
  case h_1 =>
    split at h
    · cases h; assumption
    · cases h
  all_goals (cases h; rfl)

/-- Settles O14: port by port; `encInstr_wf` is the encoder's rows. -/
theorem decodedInstructionsAreWellFormed : Obligations.DecodedInstructionsAreWellFormed := by
  unfold Obligations.DecodedInstructionsAreWellFormed
  intro c w i _ h
  cases w with
  | host l => exact decodeHost_wf h
  | enc rw a sock => cases h; exact encInstr_wf ..
  | frame w => exact decodeFrame_wf h
  | uop l =>
    simp only [decode, decodeUop] at h
    split at h <;> cases h <;> rfl

/-- Settles O15: seven closed words, each run through the decoder. -/
theorem writtenOutWordsDecode : Obligations.WrittenOutWordsDecode := by
  unfold Obligations.WrittenOutWordsDecode
  exact ⟨rfl, rfl, rfl, rfl, rfl, rfl, rfl⟩

end Sys2Proof
end

section
/-! The register accesses in closed form (spec 42_register_access.md R153 to R165). -/

namespace Sys2Proof.Machine

/-- What was loaded at the front of the frame buffer is read back there (R21). -/
theorem load_bytes_take (b : FrameBuf) {l : List Byte} {n : Nat} (hl : l.length = n) (hn : n ≤ 8) :
    (b.load l).bytes.take n = l := by
  subst hl
  exact FrameBuf.bytes_load_take b hn

theorem State.ready.busy {s : State} (h : s.ready) : s.busy = false := h.2.1

/-- A write operation on an idle block, from its latching to its end (R153). -/
theorem write_finished {s : State} (hbusy : s.busy = false) (l : Latches) (addr : Half) (p : List Byte) (n : Half) :
    (((s.start l).busWrite addr p).returnCount n).finish = { s with
      phase := .idle, csN := true
      fb := s.fb.load ((enc s.cfg.tier addr true).bytes ++ if p.length ≤ 5 then p else [])
      latch := l, res := { s.res with count := n }
      drawn := s.drawn + (3 + p.length)
      trace := s.trace ++ writeTrace s (enc s.cfg.tier addr true) p s.drawn } := by
  rw [busWrite_eq]
  cases s
  cases hbusy
  rfl

/-- The read transaction of a read operation: the state it ends in and the bytes it returns (R156). -/
theorem start_busRead (s : State) (l : Latches) (addr : Half) (n : Nat) :
    (s.start l).busRead addr n = ({ s with
      busy := true, csN := true
      fb := s.fb.load (enc s.cfg.tier addr false).bytes
      latch := l
      drawn := s.drawn + (3 + n)
      trace := s.trace ++ readTrace s (enc s.cfg.tier addr false) n s.drawn }, s.received (s.drawn + 3) n) := by
  rw [busRead_eq]
  rfl

/-- RD on an idle block, from its latching to its end. -/
theorem read_finished {s : State} (hbusy : s.busy = false) (l : Latches) (addr : Half) (k : Nat) (n : Half) :
    (((s.start l).busRead addr k).1.returnData ((s.start l).busRead addr k).2 n).finish = { s with
      phase := .idle, csN := true
      fb := s.fb.load (enc s.cfg.tier addr false).bytes
      latch := l, res := { s.res with rbuf := s.received (s.drawn + 3) k, count := n }
      drawn := s.drawn + (3 + k)
      trace := s.trace ++ readTrace s (enc s.cfg.tier addr false) k s.drawn } := by
  rw [start_busRead]
  cases s
  cases hbusy
  rfl

/-- RD8 and RD16, which put a value into `res_val` besides (R160, R162). -/
theorem readValue_finished {s : State} (hbusy : s.busy = false) (l : Latches) (addr : Half) (k : Nat) (n v : Half) :
    ((((s.start l).busRead addr k).1.returnData ((s.start l).busRead addr k).2 n).returnValue v).finish = { s with
      phase := .idle, csN := true
      fb := s.fb.load (enc s.cfg.tier addr false).bytes
      latch := l, res := { s.res with rbuf := s.received (s.drawn + 3) k, count := n, val := v }
      drawn := s.drawn + (3 + k)
      trace := s.trace ++ readTrace s (enc s.cfg.tier addr false) k s.drawn } :=
  congrArg (State.returnValue · v) (read_finished hbusy l addr k n)

/-- Settles O30: the write transaction in closed form, its trace the one burst of `writeTrace_of_le`. -/
theorem shortWriteIsOneBurst : Obligations.ShortWriteIsOneBurst := by
  unfold Obligations.ShortWriteIsOneBurst
  intro s addr len wbuf hready hlen hshort
  have hle : wbuf.length ≤ 5 := hlen ▸ hshort
  refine ⟨s.fb.load ((enc s.cfg.tier addr true).bytes ++ wbuf),
    load_bytes_take _ (by simp [hlen]) (by omega), ?_⟩
  rw [exec, execWr, hostOp_of_ready hready, write_finished hready.busy, writeTrace_of_le hle, if_pos hle, hlen]
  rfl

/-- Settles O31: the same with the two bursts of `writeTrace_of_gt`; only the header stands in the frame buffer. -/
theorem longWriteIsTwoBursts : Obligations.LongWriteIsTwoBursts := by
  unfold Obligations.LongWriteIsTwoBursts
  intro s addr len wbuf hready hlen hlong
  have hgt : 5 < wbuf.length := hlen ▸ hlong
  refine ⟨s.fb.load (enc s.cfg.tier addr true).bytes, load_bytes_take _ rfl (by omega), ?_⟩
  rw [exec, execWr, hostOp_of_ready hready, write_finished hready.busy, writeTrace_of_gt hgt,
    if_neg (Nat.not_le.mpr hgt), hlen, List.append_nil]
  rfl

/-- Settles O32: the read transaction in closed form; the zero length is `readTrace`'s own case split. -/
theorem readIsHeaderThenZeros : Obligations.ReadIsHeaderThenZeros := by
  unfold Obligations.ReadIsHeaderThenZeros
  intro s addr len hready
  refine ⟨s.fb.load (enc s.cfg.tier addr false).bytes, load_bytes_take _ rfl (by omega), ?_⟩
  have hzero : len.toNat = 0 ↔ len = 0 := ⟨fun h => BitVec.eq_of_toNat_eq h, fun h => h ▸ rfl⟩
  rw [exec, execRd, hostOp_of_ready hready, read_finished hready.busy]
  simp only [readTrace, hzero]
  rfl

/-- Settles O33: two writes of at most five bytes. -/
theorem byteAndWordWrites : Obligations.ByteAndWordWrites := by
  unfold Obligations.ByteAndWordWrites
  intro s addr hready
  refine ⟨fun v => ⟨s.fb.load ((enc s.cfg.tier addr true).bytes ++ [v]), load_bytes_take _ rfl (by omega), ?_⟩,
    fun v => ⟨s.fb.load ((enc s.cfg.tier addr true).bytes ++ wordBytes v), load_bytes_take _ rfl (by omega), ?_⟩⟩
  · rw [exec, execWr8, hostOp_of_ready hready, State.write8, write_finished hready.busy]
    rfl
  · rw [exec, execWr16, hostOp_of_ready hready, write_finished hready.busy]
    rfl

/-- Settles O34: two reads, of one byte and of two. -/
theorem byteAndWordReads : Obligations.ByteAndWordReads := by
  unfold Obligations.ByteAndWordReads
  intro s addr hready
  refine ⟨⟨s.fb.load (enc s.cfg.tier addr false).bytes, load_bytes_take _ rfl (by omega), ?_⟩,
    ⟨s.fb.load (enc s.cfg.tier addr false).bytes, load_bytes_take _ rfl (by omega), ?_⟩⟩
  · rw [exec, execRd8, hostOp_of_ready hready, readValue_finished hready.busy, start_busRead, ← received_one]
    rfl
  · rw [exec, execRd16, hostOp_of_ready hready, readValue_finished hready.busy, start_busRead, ← received_two]
    rfl

/-- Settles O37: the closed forms of the six accesses name every field they write. -/
theorem registerAccessFrame : Obligations.RegisterAccessFrame := by
  unfold Obligations.RegisterAccessFrame
  intro i s t hi h
  rcases hi with ⟨addr, len, wbuf, rfl⟩ | ⟨addr, len, rfl⟩ | ⟨addr, v, rfl⟩ | ⟨addr, rfl⟩ | ⟨addr, v, rfl⟩ | ⟨addr, rfl⟩
  · rw [exec, execWr, hostOp_next] at h
    obtain ⟨-, hbusy, -, rfl⟩ := h
    rw [write_finished hbusy]
    exact ⟨rfl, rfl, rfl, rfl, fun _ => ⟨rfl, rfl⟩, fun _ => rfl⟩
  · rw [exec, execRd, hostOp_next] at h
    obtain ⟨-, hbusy, -, rfl⟩ := h
    rw [read_finished hbusy]
    exact ⟨rfl, rfl, rfl, rfl, by simp, fun _ => rfl⟩
  · rw [exec, execWr8, hostOp_next] at h
    obtain ⟨-, hbusy, -, rfl⟩ := h
    rw [State.write8, write_finished hbusy]
    exact ⟨rfl, rfl, rfl, rfl, fun _ => ⟨rfl, rfl⟩, fun _ => rfl⟩
  · rw [exec, execRd8, hostOp_next] at h
    obtain ⟨-, hbusy, -, rfl⟩ := h
    rw [readValue_finished hbusy]
    exact ⟨rfl, rfl, rfl, rfl, by simp, by simp⟩
  · rw [exec, execWr16, hostOp_next] at h
    obtain ⟨-, hbusy, -, rfl⟩ := h
    rw [write_finished hbusy]
    exact ⟨rfl, rfl, rfl, rfl, fun _ => ⟨rfl, rfl⟩, fun _ => rfl⟩
  · rw [exec, execRd16, hostOp_next] at h
    obtain ⟨-, hbusy, -, rfl⟩ := h
    rw [readValue_finished hbusy]
    exact ⟨rfl, rfl, rfl, rfl, by simp, by simp⟩

/-! ### What a write receives -/

/-- The three writes are one write transaction each, in any state (R153, R159, R161). -/
theorem exec_write_eq {i : Instr}
    (hi : (∃ addr len wbuf, i = .wr addr len wbuf) ∨ (∃ addr v, i = .wr8 addr v) ∨ ∃ addr v, i = .wr16 addr v) :
    ∃ (l : Latches → Latches) (addr : Half) (p : List Byte) (n : Half),
      (∀ s, exec i s = hostOp s true fun s => (((s.start (l s.latch)).busWrite addr p).returnCount n).finish)
        ∧ ∀ k addr len wbuf, i = .wr addr len wbuf → (l k).wbuf = wbuf := by
  rcases hi with ⟨addr, len, wbuf, rfl⟩ | ⟨addr, v, rfl⟩ | ⟨addr, v, rfl⟩
  · refine ⟨(latchWr · addr len wbuf), addr, wbuf, len, fun _ => rfl, ?_⟩
    rintro k _ _ _ ⟨⟩
    rfl
  · exact ⟨(latchWr8 · addr v), addr, [v], 1, fun _ => rfl, nofun⟩
  · exact ⟨(latchWr16 · addr v), addr, wordBytes v, 2, fun _ => rfl, nofun⟩

/-- What the block itself does in a write transaction does not depend on the answers (R165). -/
theorem ownEvents_writeTrace (s t : State) (f : Frame) (p : List Byte) (i j : Nat) :
    ownEvents (writeTrace s f p i) = ownEvents (writeTrace t f p j) := by
  unfold writeTrace
  split <;> rfl

/-- Settles O38: `write_finished` has the answers in the trace alone, where `ownEvents_writeTrace` strips them. -/
theorem writesIgnoreWhatTheyReceive : Obligations.WritesIgnoreWhatTheyReceive := by
  unfold Obligations.WritesIgnoreWhatTheyReceive
  intro i s t other hi h
  obtain ⟨l, addr, p, n, hexec, hwbuf⟩ := exec_write_eq hi
  rw [hexec, hostOp_next] at h
  obtain ⟨hlegal, hbusy, hpin, rfl⟩ := h
  refine ⟨s.trace ++ writeTrace { s with answers := other } (enc s.cfg.tier addr true) p s.drawn, ?_, ?_, ?_⟩
  · rw [hexec]
    refine hostOp_next.mpr ⟨hlegal, hbusy, hpin, ?_⟩
    rw [write_finished hbusy, write_finished (s := { s with answers := other }) hbusy]
  · rw [write_finished hbusy, ownEvents_append, ownEvents_append,
      ownEvents_writeTrace { s with answers := other } s]
  · rw [write_finished hbusy]
    exact hwbuf s.latch

end Sys2Proof.Machine
end

section
/-! SOFTRESET, VERIFY and PARTITION (spec 43_chip_controller.md R183 to R185, 60_exceptions.md R241 to R246). -/

namespace Sys2Proof.Machine

/-- SOFTRESET as a step of its own, from what `softReset` does: the phase is put back (log entry 8). -/
theorem exec_softReset_of_pinned {s : State} {v : Option Cause} {ev : List Event} {n : Nat} {p : BitVec 5}
    (hlegal : s.cfg.legal = true) (hpin : s.csOe = true)
    (h : (softReset s).2 = v ∧ Ran s (softReset s).1 ev n ∧ (softReset s).1.pollCount = p) :
    ∃ fb, exec .softReset s = .next { s with
      csN := true, fb := fb, pollCount := p, cause := v, drawn := s.drawn + n, trace := s.trace ++ ev } := by
  obtain ⟨hverdict, hran, hcount⟩ := h
  refine ⟨(softReset s).1.fb, ?_⟩
  rw [exec, execSoftReset, microOp_next]
  refine ⟨hlegal, fun _ => hpin, ?_⟩
  dsimp only
  rw [hverdict, hran.moved, hcount]

/-- Settles O40: `softReset_clears` is the soft reset whose `k`-th read is the first zero. -/
theorem softResetClearsAtFirstZero : Obligations.SoftResetClearsAtFirstZero := by
  unfold Obligations.SoftResetClearsAtFirstZero
  intro s k hlegal hpin hclears
  exact exec_softReset_of_pinned hlegal hpin (softReset_clears hclears)

/-- Settles O41: `softReset_times_out` is the soft reset whose reads are all non-zero. -/
theorem softResetTimesOut : Obligations.SoftResetTimesOut := by
  unfold Obligations.SoftResetTimesOut
  intro s hlegal hpin hfails
  exact exec_softReset_of_pinned hlegal hpin (softReset_times_out hfails)

/-- VERIFY issued by the host, from how the VERIFY inside it ends. -/
theorem exec_verify_of_ready {s : State} {ev : List Event} {n : Nat} {p : BitVec 5} {v : Option Cause} (hready : s.ready)
    (h : ∀ u : State, u.answers = s.answers → u.cfg = s.cfg → u.drawn = s.drawn → Verified u (verify u) ev n p v) :
    ∃ fb, exec .verify s = .next { s with
      phase := .idle, csN := true, fb := fb, pollCount := p
      latch := { s.latch with op := 0xB }, res := { s.res with ok := v.isNone }, cause := v
      drawn := s.drawn + n, trace := s.trace ++ ev } := by
  obtain ⟨hverdict, hran, hcount⟩ := h (s.start (latchOp s.latch 0xB)) rfl rfl rfl
  refine ⟨(verify (s.start (latchOp s.latch 0xB))).1.fb, ?_⟩
  rw [exec, execVerify, hostOp_of_ready hready]
  dsimp only
  rw [hverdict, hran.moved, hcount]
  simp [State.returnVerdict, State.finish, State.start, latchOp, hready.busy]

/-- Settles O42: `verify_passes`, whose trace and answers are those of the state before the latching. -/
theorem verifySucceeds : Obligations.VerifySucceeds := by
  unfold Obligations.VerifySucceeds
  intro s k hready hverifies
  refine exec_verify_of_ready (v := none) hready fun u hanswers hcfg hdrawn => ?_
  rw [← fullVerifyTrace_congr hanswers hcfg, ← hdrawn]
  exact verify_passes (by rw [verifies_congr hanswers hcfg, hdrawn]; exact hverifies)

/-- Settles O43: `verify_fails`, in the same way. -/
theorem verifyFailsAtFirstMismatch : Obligations.VerifyFailsAtFirstMismatch := by
  unfold Obligations.VerifyFailsAtFirstMismatch
  intro s c ev n p hready hfails
  refine exec_verify_of_ready (v := some c) hready fun u hanswers hcfg hdrawn => ?_
  exact verify_fails (by rw [failsAs_congr hanswers hcfg, hdrawn]; exact hfails)

/-- Settles O45: `partition_large` is the sixteen writes, and without large buffers the definition is the identity. -/
theorem partitionWritesTheSizeRegisters : Obligations.PartitionWritesTheSizeRegisters := by
  unfold Obligations.PartitionWritesTheSizeRegisters
  intro s hlegal
  refine ⟨fun hsmall => ?_, fun hlarge hpin => ⟨(partition s).fb, ?_⟩⟩
  · refine microOp_next.mpr ⟨hlegal, by simp [hsmall], ?_⟩
    simp [partition, hsmall]
  · refine microOp_next.mpr ⟨hlegal, fun _ => hpin, ?_⟩
    obtain ⟨hphase, hcount⟩ := partition_still s
    rw [(partition_large hlarge).moved, hphase, hcount]

end Sys2Proof.Machine
end

section
/-! INIT and LINK (spec 43_chip_controller.md R182, R186, R188 to R190). -/

namespace Sys2Proof.Machine

/-- INIT and LINK need no configured pin (R167). -/
theorem hostOp_of_idle {s : State} (h : s.idle) (k : State → State) : hostOp s false k = .next (k s) :=
  hostOp_next.mpr ⟨h.1, h.2, by simp, rfl⟩

/-- The INIT inside an operation that has just latched its operands, on answers that pass, in terms of the state before. -/
theorem bringUp_started_succeeds {s : State} {k : Nat} (l : Latches) (p : Phase) (hclear : s.chipState ≠ .operational)
    (hverifies : s.verifies s.drawn k) :
    ∃ fb, bringUp ((s.start l).enter p) = { s with
      chipState := .operational, phase := .initClose, busy := true, csOe := true, csN := true, busOpen := false, fb := fb
      pollCount := BitVec.ofNat 5 k
      latch := l, res := { s.res with ok := true }, cause := none
      drawn := s.drawn + (4 * k + 36) + (if s.cfg.largeBuffers then 64 else 0)
      trace := s.trace ++ [.delay s.cfg.resetSettleUnits, .csDirOut, .csHigh, .busBegin]
        ++ fullVerifyTrace s s.drawn k
        ++ (if s.cfg.largeBuffers then partitionTrace s (s.drawn + (4 * k + 36)) else [])
        ++ [.busEnd] } := by
  obtain ⟨fb, h⟩ := bringUp_succeeds (s := (s.start l).enter p) hclear hverifies
  rw [fullVerifyTrace_congr (s := s) (t := (s.start l).enter p) rfl rfl,
    partitionTrace_congr (s := s) (t := (s.start l).enter p) rfl rfl] at h
  exact ⟨fb, h⟩

/-- The same on answers that fail. -/
theorem bringUp_started_fails {s : State} {c : Cause} {ev : List Event} {n : Nat} {q : BitVec 5} (l : Latches) (p : Phase)
    (hclear : s.chipState ≠ .operational) (hfails : s.failsAs s.drawn c ev n q) :
    ∃ fb r, bringUp ((s.start l).enter p) = { s with
      chipState := .uninitialized, phase := r, busy := true, csOe := true, csN := true, busOpen := false, fb := fb
      pollCount := q
      latch := l, res := { s.res with ok := false }, cause := some c
      drawn := s.drawn + n
      trace := s.trace ++ [.delay s.cfg.resetSettleUnits, .csDirOut, .csHigh, .busBegin] ++ ev ++ [.busEnd] } := by
  rw [← failsAs_congr (s := s) (t := (s.start l).enter p) rfl rfl] at hfails
  obtain ⟨fb, h⟩ := bringUp_fails (s := (s.start l).enter p) hclear hfails
  exact ⟨fb, _, h⟩

/-- Settles O46: `bringUp_started_succeeds`, from the latched operation to the idle block. -/
theorem initSucceeds : Obligations.InitSucceeds := by
  unfold Obligations.InitSucceeds
  intro s k hidle hclear hverifies
  obtain ⟨fb, h⟩ := bringUp_started_succeeds (latchOp s.latch 0x8) s.phase hclear hverifies
  refine ⟨fb, ?_⟩
  rw [exec, execInit, hostOp_of_idle hidle]
  exact congrArg Host.Outcome.next ((congrArg State.finish h).trans (by simp only [State.finish, latchOp, hidle.2]))

/-- Settles O47: `bringUp_started_fails`, in the same way. -/
theorem initFailsClean : Obligations.InitFailsClean := by
  unfold Obligations.InitFailsClean
  intro s c ev n p hidle hclear hfails
  obtain ⟨fb, r, h⟩ := bringUp_started_fails (latchOp s.latch 0x8) s.phase hclear hfails
  refine ⟨fb, ?_⟩
  rw [exec, execInit, hostOp_of_idle hidle]
  exact congrArg Host.Outcome.next ((congrArg State.finish h).trans (by simp only [State.finish, latchOp, hidle.2]))

/-- Settles O44: `verification_ends` is the case split; each way of ending is one of the theorems above. -/
theorem verificationOutcomesAreExhaustive : Obligations.VerificationOutcomesAreExhaustive := by
  unfold Obligations.VerificationOutcomesAreExhaustive
  refine ⟨fun s hready => ?_, fun s hidle hclear => ?_⟩
  · rcases verification_ends s s.drawn with ⟨k, h⟩ | ⟨c, ev, n, p, h⟩
    · obtain ⟨fb, hexec⟩ := verifySucceeds s k hready h
      exact ⟨_, hexec, .inl ⟨rfl, rfl, k, h⟩⟩
    · obtain ⟨fb, hexec⟩ := verifyFailsAtFirstMismatch s c ev n p hready h
      exact ⟨_, hexec, .inr ⟨rfl, c, ev, n, p, rfl, h⟩⟩
  · rcases verification_ends s s.drawn with ⟨k, h⟩ | ⟨c, ev, n, p, h⟩
    · obtain ⟨fb, hexec⟩ := initSucceeds s k hidle hclear h
      exact ⟨_, hexec, .inl ⟨rfl, rfl, k, h⟩⟩
    · obtain ⟨fb, hexec⟩ := initFailsClean s c ev n p hidle hclear h
      exact ⟨_, hexec, .inr ⟨rfl, c, ev, n, p, rfl, h⟩⟩

/-- Settles O48: `bringUp_set` is INIT with the latch set. -/
theorem initIsIdempotent : Obligations.InitIsIdempotent := by
  unfold Obligations.InitIsIdempotent
  intro s hidle hset
  rw [exec, execInit, hostOp_of_idle hidle, bringUp_set (s := s.start (latchOp s.latch 0x8)) hset]
  simp [State.finish, State.start, latchOp, hidle.2]

/-- The link status, asked of the bit that is set (R186, D21). -/
theorem linkOf_eq (mask p : Byte) : linkOf mask p = if p &&& mask ≠ 0x00 then .up else .down :=
  (ite_not ..).symm

/-- `LK.read` in closed form (R186). -/
theorem linkRead_eq (s : State) : ∃ fb, linkRead s = { s with
    phase := .lkRead, csN := true, fb := fb
    res := { s.res with link := if s.oracle (s.drawn + 3) &&& s.cfg.linkMask ≠ 0x00 then .up else .down }
    drawn := s.drawn + 4
    trace := s.trace ++ read8Trace s s.cfg.phyAddr s.drawn } := by
  have hmoved := (read8_ran (s.enter .lkRead) s.cfg.phyAddr).moved
  refine ⟨((s.enter .lkRead).read8 s.cfg.phyAddr).1.fb, ?_⟩
  unfold linkRead
  dsimp only
  rw [read8_byte, hmoved, read8_phase, read8_pollCount, linkOf_eq]
  rfl

/-- Settles O49: INIT with the latch set, and then the read of `linkRead_eq`. -/
theorem linkReadsLive : Obligations.LinkReadsLive := by
  unfold Obligations.LinkReadsLive
  intro s hidle hset
  have h := bringUp_set (s := (s.start (latchOp s.latch 0x9)).enter .lkInit) hset
  obtain ⟨fb, hread⟩ := linkRead_eq (bringUp ((s.start (latchOp s.latch 0x9)).enter .lkInit))
  refine ⟨fb, ?_⟩
  rw [exec, execLink, hostOp_of_idle hidle, linkStatus, linkAfterInit, if_pos (by rw [h]), hread, h]
  simp only [State.finish, hidle.2]
  rfl

/-- Settles O50: `bringUp_started_succeeds` and `bringUp_started_fails` give what INIT and LINK do in the same terms, with
the operation code alone between them; the read after a success is `linkRead_eq`. -/
theorem linkRunsInit : Obligations.LinkRunsInit := by
  unfold Obligations.LinkRunsInit
  intro s u hclear hinit
  have hidle : s.idle := by
    rw [exec, execInit, hostOp_next] at hinit
    exact ⟨hinit.1, hinit.2.1⟩
  rw [exec, execLink, hostOp_of_idle hidle, linkStatus]
  rcases verification_ends s s.drawn with ⟨k, h⟩ | ⟨c, ev, n, p, h⟩
  · obtain ⟨fb, hexec⟩ := initSucceeds s k hidle hclear h
    obtain ⟨fb', h'⟩ := bringUp_started_succeeds (latchOp s.latch 0x9) .lkInit hclear h
    rw [hexec] at hinit
    cases hinit
    refine ⟨nofun, fun _ => ?_⟩
    obtain ⟨fb'', hread⟩ := linkRead_eq (bringUp ((s.start (latchOp s.latch 0x9)).enter .lkInit))
    refine ⟨fb'', ?_⟩
    rw [linkAfterInit, if_pos (by rw [h']), hread, h']
    simp only [State.finish, hidle.2]
    rfl
  · obtain ⟨fb, hexec⟩ := initFailsClean s c ev n p hidle hclear h
    obtain ⟨fb', r, h'⟩ := bringUp_started_fails (latchOp s.latch 0x9) .lkInit hclear h
    rw [hexec] at hinit
    cases hinit
    refine ⟨fun _ => ⟨fb', ?_⟩, nofun⟩
    rw [linkAfterInit, if_neg (by rw [h']; simp), h']
    simp only [State.returnLink, State.finish, hidle.2]
    rfl

end Sys2Proof.Machine
end

section
/-! EXEC and its poll loop (spec 43_chip_controller.md R187, R192). -/

namespace Sys2Proof.Machine

/-- One poll in closed form: it ends the operation when it reads zero, and otherwise leaves it at its poll label (R187). -/
theorem execPoll_eq (s : State) : ∃ fb, execPoll s = { s with
    busy := if s.oracle (s.drawn + 3) = 0x00 then false else s.busy
    phase := if s.oracle (s.drawn + 3) = 0x00 then .idle else .exPoll
    csN := true, fb := fb, drawn := s.drawn + 4
    trace := s.trace ++ read8Trace s (s.cfg.snAddr s.latch.sock s.cfg.snCrOff) s.drawn } := by
  have hmoved := (read8_ran (s.enter .exPoll) (s.cfg.snAddr s.latch.sock s.cfg.snCrOff)).moved
  refine ⟨((s.enter .exPoll).read8 (s.cfg.snAddr s.latch.sock s.cfg.snCrOff)).1.fb, ?_⟩
  unfold execPoll
  dsimp only
  rw [read8_byte, oracle_congr (s := s) (t := s.enter .exPoll) rfl, State.enter_drawn]
  split
  · rw [State.finish, hmoved, read8_pollCount]
    rfl
  · rw [hmoved, read8_phase, read8_pollCount]
    rfl

/-- EXEC issued by the host, through its first poll. -/
theorem exec_exec_of_ready {s : State} (hready : s.ready) (sock : BitVec 3) (c : Byte) :
    ∃ fb, exec (.exec sock c) s = .next { s with
      busy := if s.oracle (s.drawn + 7) = 0x00 then false else true
      phase := if s.oracle (s.drawn + 7) = 0x00 then .idle else .exPoll
      csN := true, fb := fb
      latch := { s.latch with op := 0xA, sock := sock, val := c.setWidth 16 }
      drawn := s.drawn + 8
      trace := s.trace ++ write8Trace s (s.cfg.snAddr sock s.cfg.snCrOff) c s.drawn
        ++ read8Trace s (s.cfg.snAddr sock s.cfg.snCrOff) (s.drawn + 4) } := by
  have hwrite := (write8_ran ((s.start (latchExec s.latch sock c)).enter .exWrite)
    (s.cfg.snAddr sock s.cfg.snCrOff) (loByte (c.setWidth 16))).moved
  obtain ⟨fb, hpoll⟩ := execPoll_eq (((s.start (latchExec s.latch sock c)).enter .exWrite).write8
    (s.cfg.snAddr sock s.cfg.snCrOff) (loByte (c.setWidth 16)))
  refine ⟨fb, ?_⟩
  rw [exec, execExec, hostOp_of_ready hready]
  refine congrArg Host.Outcome.next (hpoll.trans ?_)
  rw [hwrite, write8_pollCount, loByte_setWidth]
  rfl

/-- Settles O51: `exec_exec_of_ready` with a first poll that reads zero. -/
theorem execEndsAtFirstZeroPoll : Obligations.ExecEndsAtFirstZeroPoll := by
  unfold Obligations.ExecEndsAtFirstZeroPoll
  intro s sock c hready hzero
  obtain ⟨fb, h⟩ := exec_exec_of_ready hready sock c
  rw [if_pos hzero, if_pos hzero, ← hready.busy] at h
  exact ⟨fb, h⟩

/-- Settles O52: `exec_exec_of_ready` with a first poll that does not. -/
theorem execStaysBusyOnNonZeroPoll : Obligations.ExecStaysBusyOnNonZeroPoll := by
  unfold Obligations.ExecStaysBusyOnNonZeroPoll
  intro s sock c hready hnonzero
  obtain ⟨fb, h⟩ := exec_exec_of_ready hready sock c
  rw [if_neg hnonzero, if_neg hnonzero] at h
  exact ⟨fb, h⟩

theorem pollTraces_succ (s : State) (i n : Nat) :
    pollTraces s i (n + 1) =
      pollTraces s i n ++ read8Trace s (s.cfg.snAddr s.latch.sock s.cfg.snCrOff) (i + 4 * n) := by
  simp [pollTraces, List.range_succ]

/-- A spinning EXEC after `n` more polls that read non-zero bytes. -/
def afterPolls (s : State) (n : Nat) (fb : FrameBuf) : State :=
  { s with fb := fb, drawn := s.drawn + 4 * n, trace := s.trace ++ pollTraces s s.drawn n }

/-- The step of an EXEC that has polled `n` times: its next poll. -/
theorem step_afterPolls {s : State} {n : Nat} {fb : FrameBuf} (hspin : s.spinning)
    (hports : ∀ w, s.offers.head? = some w → w.format ≠ .frame) :
    ∃ fb', step (afterPolls s n fb) = .next { s with
      busy := if s.oracle (s.drawn + 4 * n + 3) = 0x00 then false else s.busy
      phase := if s.oracle (s.drawn + 4 * n + 3) = 0x00 then .idle else s.phase
      fb := fb', drawn := s.drawn + 4 * (n + 1), trace := s.trace ++ pollTraces s s.drawn (n + 1) } := by
  obtain ⟨fb', hpoll⟩ := execPoll_eq (afterPolls s n fb)
  refine ⟨fb', ?_⟩
  have hstep := step_of_spinning (s := afterPolls s n fb) hspin hports
  obtain ⟨-, -, -, hphase, hcs⟩ := hspin
  rw [hstep, hpoll, pollTraces_succ, ← List.append_assoc, hphase]
  simp only [afterPolls, hcs]
  rfl

/-- Non-zero polls go on spinning (R192). -/
theorem run_nonzero_polls {s : State} (n : Nat) (hspin : s.spinning)
    (hports : ∀ w, s.offers.head? = some w → w.format ≠ .frame)
    (hnonzero : ∀ j < n, s.oracle (s.drawn + 4 * j + 3) ≠ 0x00) :
    ∃ fb, Sys2Proof.core.run n s = .next (afterPolls s n fb) := by
  induction n with
  | zero => exact ⟨s.fb, by simp [Host.Core.run, afterPolls, pollTraces]⟩
  | succ n ih =>
    obtain ⟨fb, h⟩ := ih fun j hj => hnonzero j (by omega)
    obtain ⟨fb', hstep⟩ := step_afterPolls (n := n) (fb := fb) hspin hports
    rw [if_neg (hnonzero n (by omega)), if_neg (hnonzero n (by omega))] at hstep
    exact ⟨fb', (run_then_step n h).trans hstep⟩

/-- Settles O53: `run_requests` serves what the encoder takes, `run_nonzero_polls` is the loop. -/
theorem execSpinsWhileNonZero : Obligations.ExecSpinsWhileNonZero := by
  unfold Obligations.ExecSpinsWhileNonZero
  intro n s reqs rest hspin hports hnonzero
  obtain ⟨hoffers, hreqs, hrest⟩ := hports
  obtain ⟨e, he, hrun⟩ := run_requests n hspin.1 hoffers hreqs
  obtain ⟨fb, hpolls⟩ := run_nonzero_polls (s := { s with enc := e, offers := rest }) n hspin hrest hnonzero
  exact ⟨fb, e, he, hrun.trans hpolls⟩

/-- Settles O54: the same loop, and one more poll, which reads zero. -/
theorem execCompletesWhenTheChipClears : Obligations.ExecCompletesWhenTheChipClears := by
  unfold Obligations.ExecCompletesWhenTheChipClears
  intro n s reqs rest hspin hports hnonzero hzero
  obtain ⟨hoffers, hreqs, hrest⟩ := hports
  obtain ⟨e, he, hrun⟩ := run_requests (n + 1) hspin.1 hoffers hreqs
  obtain ⟨fb, hpolls⟩ := run_nonzero_polls (s := { s with enc := e, offers := rest }) n hspin hrest hnonzero
  obtain ⟨fb', hlast⟩ := step_afterPolls (s := { s with enc := e, offers := rest }) (n := n) (fb := fb) hspin hrest
  have hzero' : ({ s with enc := e, offers := rest } : State).oracle (s.drawn + 4 * n + 3) = 0x00 := hzero
  rw [if_pos hzero', if_pos hzero'] at hlast
  exact ⟨fb', e, he, (hrun.trans (run_then_step n hpolls)).trans hlast⟩

end Sys2Proof.Machine
end

section
/-! The rows of the encoder's port (spec 41_encoder.md R126 to R133): the frame of the row's rule, and nothing else changed. -/

namespace Sys2Proof.Machine

section
variable {s : State} {t : Tier} {rw : Bool} {addr : Half} {sock : BitVec 3} {f g : Frame}

/-- A row that every block has. -/
theorem encPort_eq (hlegal : s.cfg.legal = true) (hf : f = g) :
    encPort s true addr rw sock f = .next { s with enc := ⟨addr, rw, sock, g⟩ } :=
  hf ▸ encPort_next.mpr ⟨hlegal, rfl, rfl⟩

/-- A transmit-buffer row of the block's tier. -/
theorem encTxRow_eq (hlegal : s.cfg.legal = true) (htier : s.cfg.tier = t) (hf : encTxbuf t addr rw = f) :
    encTxRow t rw addr sock s = .next { s with enc := ⟨addr, rw, sock, f⟩ } :=
  hf ▸ encPort_next.mpr ⟨hlegal, by simp [htier], rfl⟩

/-- A receive-buffer row of the block's tier. -/
theorem encRxRow_eq (hlegal : s.cfg.legal = true) (htier : s.cfg.tier = t) (hf : encRxbuf t addr rw = f) :
    encRxRow t rw addr sock s = .next { s with enc := ⟨addr, rw, sock, f⟩ } :=
  hf ▸ encPort_next.mpr ⟨hlegal, by simp [htier], rfl⟩

end

/-- Settles O20: the socket-register byte is the socket above the base mode (`sockregBits_eq`), written out for each of the
eight sockets. -/
theorem registerEncoderRowsGiveTheirFrame : Obligations.RegisterEncoderRowsGiveTheirFrame := by
  unfold Obligations.RegisterEncoderRowsGiveTheirFrame
  intro s addr sock hlegal
  have hbits := loByte_eq_setWidth ((addr >>> 3) &&& 0x00E0)
  have happend : ∀ k : BitVec 3, k.setWidth 8 <<< 5 ||| 0x08 = k ++ 0b01000#5
      ∧ k.setWidth 8 <<< 5 ||| 0x0C = k ++ 0b01100#5 := by decide
  refine ⟨fun _ => ⟨encPort_eq hlegal rfl, encPort_eq hlegal rfl⟩, fun _ _ => ⟨?_, ?_, ?_⟩⟩
  · exact encPort_eq hlegal (by rw [encSockreg, hbits]; rfl)
  · exact encPort_eq hlegal (by rw [encSockreg, hbits]; rfl)
  · rw [← hbits, sockregBits_eq]
    exact happend (addr.extractLsb' 8 3)

/-- Settles O21: the socket bits of each tier are those of O4. -/
theorem transmitEncoderRowsGiveTheirFrame : Obligations.TransmitEncoderRowsGiveTheirFrame := by
  unfold Obligations.TransmitEncoderRowsGiveTheirFrame
  intro s addr sock hlegal _ _
  obtain ⟨h2, h4, h8, h16, -⟩ := socketBitsArePartitionIndex addr
  refine ⟨fun ht => ⟨?_, ?_⟩, fun ht => ⟨?_, ?_⟩, fun ht => ⟨?_, ?_⟩, fun ht => ⟨?_, ?_⟩⟩
  · exact encTxRow_eq hlegal ht (by rw [encTxbuf, h2]; rfl)
  · exact encTxRow_eq hlegal ht (by rw [encTxbuf, h2]; rfl)
  · exact encTxRow_eq hlegal ht (by rw [encTxbuf, h4]; rfl)
  · exact encTxRow_eq hlegal ht (by rw [encTxbuf, h4]; rfl)
  · exact encTxRow_eq hlegal ht (by rw [encTxbuf, h8]; rfl)
  · exact encTxRow_eq hlegal ht (by rw [encTxbuf, h8]; rfl)
  · exact encTxRow_eq hlegal ht (by rw [encTxbuf, h16]; rfl)
  · exact encTxRow_eq hlegal ht (by rw [encTxbuf, h16]; rfl)

/-- Settles O22: the same for the receive buffers. -/
theorem receiveEncoderRowsGiveTheirFrame : Obligations.ReceiveEncoderRowsGiveTheirFrame := by
  unfold Obligations.ReceiveEncoderRowsGiveTheirFrame
  intro s addr sock hlegal _
  obtain ⟨h2, h4, h8, h16, -⟩ := socketBitsArePartitionIndex addr
  refine ⟨fun ht => ⟨?_, ?_⟩, fun ht => ⟨?_, ?_⟩, fun ht => ⟨?_, ?_⟩, fun ht => ⟨?_, ?_⟩⟩
  · exact encRxRow_eq hlegal ht (by rw [encRxbuf, h2]; rfl)
  · exact encRxRow_eq hlegal ht (by rw [encRxbuf, h2]; rfl)
  · exact encRxRow_eq hlegal ht (by rw [encRxbuf, h4]; rfl)
  · exact encRxRow_eq hlegal ht (by rw [encRxbuf, h4]; rfl)
  · exact encRxRow_eq hlegal ht (by rw [encRxbuf, h8]; rfl)
  · exact encRxRow_eq hlegal ht (by rw [encRxbuf, h8]; rfl)
  · exact encRxRow_eq hlegal ht (by rw [encRxbuf, h16]; rfl)
  · exact encRxRow_eq hlegal ht (by rw [encRxbuf, h16]; rfl)

end Sys2Proof.Machine
end

section
/-! Configuration, reset, the ports, chip select and the surrounding software (spec 00_scope.md R6, R7; 10_state.md R29,
R30, R32, R37; 30_encoding.md R91, R92; 40_chip_select.md R111 to R113; 42_register_access.md R167; 44_facade.md R225). -/

namespace Sys2Proof.Machine

/-! ### Configuration and reset -/

/-- Settles O16: the four legal socket counts, each with its tier. -/
theorem tierFollowsConfiguration : Obligations.TierFollowsConfiguration := by
  unfold Obligations.TierFollowsConfiguration
  intro c hlegal
  refine ⟨fun hsmall => by simp [Config.tier, hsmall, Tier.ssize], fun hlarge => ?_⟩
  rcases Config.legal_maxSockNum hlegal with h | h | h | h <;> simp [Config.tier, hlarge, h, Tier.ssize]

/-- Settles O17: the table is the definition; the total is computed for the four legal socket counts, and for eight equal
buffers when large buffers are off. -/
theorem partitionTableFillsTheChip : Obligations.PartitionTableFillsTheChip := by
  unfold Obligations.PartitionTableFillsTheChip
  intro c hlegal
  refine ⟨fun _ _ => rfl, ?_⟩
  cases hl : c.largeBuffers with
  | false =>
    have hcapacity : c.capacity = fun _ => 2048 := funext fun i => by simp [Config.capacity, hl]
    rw [hcapacity]
    rfl
  | true =>
    rcases Config.legal_maxSockNum hlegal with h | h | h | h <;>
      simp [Config.capacity, Config.tier, hl, h, Tier.ssize, List.range_succ]

/-- An idle block with nothing at its ports waits (R37). -/
theorem step_of_waiting {s : State} (hidle : s.idle) (hoffers : s.offers = []) : step s = .next s := by
  simp [step, serveNext, hidle.1, hidle.2, hoffers]

/-- Settles O18: the table's values are those of `State.resetWith`, and the block it leaves is idle. -/
theorem blockResetValues : Obligations.BlockResetValues := by
  unfold Obligations.BlockResetValues
  intro s
  refine ⟨rfl, rfl, rfl, rfl, rfl, rfl, rfl, rfl, fun hlegal hoffers => ?_⟩
  exact step_of_waiting ⟨hlegal, rfl⟩ hoffers

/-! ### Refusals -/

theorem hostOp_illegal {s : State} (h : s.cfg.legal = false) (p : Bool) (k : State → State) :
    hostOp s p k = .refused .illegalConfiguration := by
  simp [hostOp, h]

theorem microOp_illegal {s : State} (h : s.cfg.legal = false) (p : Bool) (k : State → State) :
    microOp s p k = .refused .illegalConfiguration := by
  simp [microOp, h]

theorem encPort_illegal {s : State} (h : s.cfg.legal = false) (b rw : Bool) (addr : Half) (sock : BitVec 3) (f : Frame) :
    encPort s b addr rw sock f = .refused .illegalConfiguration := by
  simp [encPort, h]

theorem hostOp_busy {s : State} (hlegal : s.cfg.legal = true) (hbusy : s.busy = true) (p : Bool) (k : State → State) :
    hostOp s p k = .refused .operationInProgress := by
  simp [hostOp, hlegal, hbusy]

theorem hostOp_unpinned {s : State} (hidle : s.idle) (hpin : s.csOe = false) (k : State → State) :
    hostOp s true k = .refused .pinNotConfigured := by
  simp [hostOp, hidle.1, hidle.2, hpin]

/-- Every operation of the host port stands under `hostOp`, beside the reserved codes, which have their own refusal. -/
theorem exec_of_hostop {i : Instr} (hformat : i.format = .hostop) :
    (∃ c, ∀ s, exec i s = .refused (.reservedOpcode c)) ∨ ∃ p k, ∀ s, exec i s = hostOp s p k := by
  cases i
  case reserved0 | reserved7 | reservedC | reservedD | reservedE | reservedF => exact .inl ⟨_, fun _ => rfl⟩
  case wr | rd | wr8 | rd8 | wr16 | rd16 | init | link | exec | verify => exact .inr ⟨_, _, fun _ => rfl⟩
  all_goals cases hformat

/-- Settles O19: each meaning stands under `hostOp`, `microOp` or `encPort`, which check the configuration first; the
reserved codes have their own refusal. -/
theorem illegalConfigurationIsRefused : Obligations.IllegalConfigurationIsRefused := by
  unfold Obligations.IllegalConfigurationIsRefused
  intro s h
  refine ⟨by simp [step, serveNext, h], fun i => ?_⟩
  by_cases hformat : i.format = .hostop
  · rcases exec_of_hostop hformat with ⟨c, hexec⟩ | ⟨p, k, hexec⟩
    · exact ⟨_, hexec s⟩
    · exact ⟨_, (hexec s).trans (hostOp_illegal h p k)⟩
  cases i
  case wr | rd | wr8 | rd8 | wr16 | rd16 | init | link | exec | verify
      | reserved0 | reserved7 | reservedC | reservedD | reservedE | reservedF => exact absurd rfl hformat
  case csCfg => exact ⟨_, microOp_illegal h false _⟩
  case csLow => exact ⟨_, (if_neg (by simp [h])).trans (microOp_illegal h true _)⟩
  case csHigh => exact ⟨_, (if_neg (by simp [h])).trans (microOp_illegal h true _)⟩
  case softReset => rw [exec, execSoftReset]; exact ⟨_, microOp_illegal h true _⟩
  case partition => exact ⟨_, microOp_illegal h s.cfg.largeBuffers _⟩
  all_goals exact ⟨_, encPort_illegal h _ _ _ _ _⟩

/-- Settles O39: the eight bus operations by `hostOp_unpinned`; INIT and LINK by `hostOp_of_idle`. -/
theorem busOperationsNeedTheConfiguredPin : Obligations.BusOperationsNeedTheConfiguredPin := by
  unfold Obligations.BusOperationsNeedTheConfiguredPin
  intro s hidle hpin
  simp [exec, execWr, execRd, execWr8, execRd8, execWr16, execRd16, execExec, execVerify, execInit, execLink,
    hostOp_unpinned hidle hpin, hostOp_of_idle hidle]

/-! ### The ports -/

/-- With a word at its ports that is served now, a block decodes and runs it. -/
theorem step_of_served {s : State} {w : PortWord} {rest : List PortWord} (hlegal : s.cfg.legal = true)
    (hoffers : s.offers = w :: rest) (hnow : s.busy = false ∨ w.format = .frame) : step s = serve s w rest := by
  rcases hnow with h | h <;> simp [step, serveNext, hlegal, hoffers, h]

/-- A host operation at the ports of a busy block leaves the running one to go on (R29). -/
theorem step_of_busy_host {s : State} {l : Latches} {rest : List PortWord} (hlegal : s.cfg.legal = true)
    (hbusy : s.busy = true) (hoffers : s.offers = .host l :: rest) : step s = resume s := by
  have hformat : (PortWord.host l).format != .frame := rfl
  simp [step, serveNext, hlegal, hoffers, hbusy, hformat]

/-- Settles O23: `step_of_served`, and then what the decoder answers. -/
theorem stepRunsTheDecodedInstruction : Obligations.StepRunsTheDecodedInstruction := by
  unfold Obligations.StepRunsTheDecodedInstruction
  intro s w rest hlegal hoffers hformat hnow
  rw [step_of_served hlegal hoffers hnow]
  exact ⟨fun i hi => by simp [serve, hformat, hi], fun e he => by simp [serve, hformat, he]⟩

/-- Settles O24: the labels are computed; `decodeHost_format` keeps the host port to its own rows. -/
theorem microOperationsAreNotIssuable : Obligations.MicroOperationsAreNotIssuable := by
  unfold Obligations.MicroOperationsAreNotIssuable
  refine ⟨rfl, rfl, rfl, rfl, rfl, fun l i h => decodeHost_format h, fun s label rest hlegal hbusy hoffers => ?_⟩
  rw [step_of_served hlegal hoffers (.inl hbusy)]
  rfl

/-- The six codes that name no operation decode, and their meaning is the refusal (R92). -/
theorem decodeHost_reserved {l : Latches} (h : l.op ∈ [0x0, 0x7, 0xC, 0xD, 0xE, 0xF]) :
    ∃ i, decodeHost l = .ok i ∧ ∀ s, exec i s = .refused (.reservedOpcode l.op) := by
  obtain ⟨op, addr, sock, len, val, wbuf⟩ := l
  simp only [List.mem_cons, List.not_mem_nil, or_false] at h
  rcases h with rfl | rfl | rfl | rfl | rfl | rfl <;> exact ⟨_, rfl, fun _ => rfl⟩

/-- Settles O25: `decodeHost_reserved` decodes the six codes, whose meanings are the refusals. -/
theorem reservedCodesAreRefused : Obligations.ReservedCodesAreRefused := by
  unfold Obligations.ReservedCodesAreRefused
  refine ⟨fun s l rest hidle hoffers hop => ?_, fun s => ⟨rfl, rfl, rfl, rfl, rfl, rfl⟩⟩
  obtain ⟨i, hdecode, hexec⟩ := decodeHost_reserved hop
  rw [step_of_served hidle.1 hoffers (.inl hidle.2)]
  simp [serve, PortWord.format, decode, hdecode, hexec]

/-- Settles O26: `kept_resume` says that the running operation leaves the ports alone, and `hostOp_busy` is the refusal. -/
theorem busyBlockAcceptsNoHostOperation : Obligations.BusyBlockAcceptsNoHostOperation := by
  unfold Obligations.BusyBlockAcceptsNoHostOperation
  intro s hlegal hbusy
  refine ⟨fun l rest t hoffers hstep => ?_, fun i hformat hnamed => ?_⟩
  · rw [step_of_busy_host hlegal hbusy hoffers] at hstep
    exact (kept_resume hstep).offers
  · rcases exec_of_hostop hformat with ⟨c, hexec⟩ | ⟨p, k, hexec⟩
    · exact absurd (hexec s) (hnamed c)
    · exact (hexec s).trans (hostOp_busy hlegal hbusy p k)

/-! ### Chip select -/

/-- Settles O27: CSCFG has no precondition but the configuration. -/
theorem pinConfiguration : Obligations.PinConfiguration := by
  unfold Obligations.PinConfiguration
  intro s hlegal
  rw [exec, execCsCfg, microOp_next]
  exact ⟨hlegal, nofun, rfl⟩

/-- Settles O28: with the pin driven CSLOW is accepted from the high level, and without it `microOp` refuses. -/
theorem chipSelectAssert : Obligations.ChipSelectAssert := by
  unfold Obligations.ChipSelectAssert
  intro s hlegal
  refine ⟨fun hpin hhigh => ?_, fun hpin => ?_⟩
  · rw [exec, execCsLow, if_neg (by simp [hhigh]), microOp_next]
    exact ⟨hlegal, fun _ => hpin, rfl⟩
  · rw [exec, execCsLow, if_neg (by simp [hpin])]
    simp [microOp, hlegal, hpin]

/-- Settles O29: with the pin driven CSHIGH is accepted from the low level. -/
theorem chipSelectDeassert : Obligations.ChipSelectDeassert := by
  unfold Obligations.ChipSelectDeassert
  intro s hlegal hpin hlow
  rw [exec, execCsHigh, if_neg (by simp [hlow]), microOp_next]
  exact ⟨hlegal, fun _ => hpin, rfl⟩

/-! ### The surrounding software -/

/-- Settles O60: the clamped product fits in 16 bits. -/
theorem retransmissionTimeoutIsClamped : Obligations.RetransmissionTimeoutIsClamped := by
  unfold Obligations.RetransmissionTimeoutIsClamped
  intro p v
  have hvalue : (rtrRaw v).toNat = min v 6553 * 10 := by
    rw [rtrRaw, BitVec.toNat_ofNat, Nat.mod_eq_of_lt (by omega)]
  exact ⟨hvalue, by omega, rfl, by decide⟩

end Sys2Proof.Machine
end
